-- ==== Sys2Proof/Word.lean ====
section
/-! DEFINITION. Word.lean: the widths the manual counts in.
Only values the manual treats as bits are bit vectors; counts, positions and store addresses are naturals. -/

namespace Sys2Proof

/-- A byte of a frame, of the control region or of the replica store. -/
abbrev Byte := BitVec 8

/-- Two bytes: a round number, a notice tag, the digest (R42, R47, R57). -/
abbrev Half := BitVec 16

/-- A word of 32 bits, four bytes (spec/00_scope.md, "word"). -/
abbrev Word := BitVec 32

/-- A window number, 0 to 31 (R1). -/
abbrev WindowNo := Fin 32

/-- A station number as its byte stands in a header or a profile; legal values are 0 to 63. -/
abbrev StationNo := BitVec 8

/-- A set of windows: window w is bit w of the 32-bit value (R172). -/
abbrev WindowSet := BitVec 32

end Sys2Proof
end

