-- ==== Sys2Proof/Syntax.lean ====
section
/-! DEFINITION. Syntax.lean: the frames of the span line as named fields (R42 to R50) and the commands of the block,
one constructor of Instr for each row of spec/opcode_table.json, in the table's order. -/

namespace Sys2Proof

/-- The header fields a frame carries besides its kind and body length, which its body fixes (R42, R43). -/
structure Header where
  sender : StationNo
  slotIndex : Byte
  round : Half
  deriving DecidableEq, Repr

/-- The body of a frame, by its kind, with the fields of R44 to R50.
A field has the width R172 gives it: window 5 bits, block 10, first word 4, level and attempt number 3. -/
inductive FrameBody where
  /-- OPEN (R44): digest, COLD flag, LEAVING flag, current set. -/
  | opn (digest : Half) (cold leaving : Bool) (current : WindowSet)
  /-- CLOSE (R45): update count, frame count, touched set. -/
  | close (updates frames : Byte) (touched : WindowSet)
  /-- UPD (R46). -/
  | upd (window : WindowNo) (first : BitVec 4) (block : BitVec 10) (words : List Word)
  /-- NTC (R47). -/
  | ntc (target : Byte) (level : BitVec 3) (tag : Half)
  /-- CREQ (R48). -/
  | creq (window : WindowNo) (attempt : BitVec 3) (first last : BitVec 10)
  /-- CBEG (R48). -/
  | cbeg (joiner : StationNo) (window : WindowNo) (first last : BitVec 10)
  /-- CBLK (R49). -/
  | cblk (joiner : StationNo) (window : WindowNo) (block : BitVec 10) (words : List Word)
  /-- CEND (R48). -/
  | cend (joiner : StationNo) (window : WindowNo) (count : Half)
  /-- CCAN (R50). -/
  | ccan (donor : StationNo) (window : WindowNo)
  /-- CABT (R50). -/
  | cabt (joiner : StationNo) (window : WindowNo)
  deriving DecidableEq, Repr

/-- A frame without its lead and check, which carry nothing of their own (R42). -/
structure Frame where
  header : Header
  body : FrameBody
  deriving DecidableEq, Repr

/-- The four byte-lane enables of the local bus; `lane0` is the byte at the lowest offset of the word (R8, R172). -/
structure Lanes where
  lane0 : Bool
  lane1 : Bool
  lane2 : Bool
  lane3 : Bool
  deriving DecidableEq, Repr

/-- What a data access of the host asks for. -/
inductive BusAccess where
  | read
  | write (value : Word)
  deriving DecidableEq, Repr

/-- The actions of the blocks on one round end, which R62 leaves unordered among themselves. -/
inductive RoundEndTask where
  /-- the misaligned-round test (R70) -/
  | misalignedTest
  /-- the Roster's silence examination (R75) -/
  | silence
  /-- the Window Table's cold marks (R33) -/
  | coldMarks
  /-- the Resync Unit's timers (R132) -/
  | resyncTimers
  /-- the Copy Server's lapse of OFFERED records (R148) -/
  | offerLapse
  deriving DecidableEq, Repr

/-- The commands of the block: one constructor per row of spec/opcode_table.json.
The host's commands (configure to stationStatus) carry their operand words and their tag as 32-bit words;
a reception carries the frame as received; a readback carries its outcome, true for intact (R55). -/
inductive Instr where
  | powerOnReset
  | initPassStep
  /-- `address` is the word address in the aperture: its low two byte-offset bits are not presented (R8). -/
  | hostDataAccess (address : BitVec 20) (lanes : Lanes) (access : BusAccess)
  | hostStoreClaimGranted
  /-- `word` is the word's index in the 1 KiB control region, its byte offset divided by 4 (R164). -/
  | controlRegionWrite (word : BitVec 8) (lanes : Lanes) (value : Word)
  | badCommandCode (code tag : Word)
  | configure (tag : Word)
  | configureComplete
  | join (tag : Word)
  | leave (tag : Word)
  | resetStation (tag : Word)
  | declare (window tag : Word)
  | resync (window tag : Word)
  | watch (window setting tag : Word)
  | clearWritten (window tag : Word)
  | sendNotice (target level noticeTag tag : Word)
  | takeNotice (tag : Word)
  | setThreshold (threshold tag : Word)
  | fence (fenceTag tag : Word)
  | takeEvent (tag : Word)
  | windowStatus (window tag : Word)
  | rosterStatus (index tag : Word)
  | stationStatus (tag : Word)
  /-- `position` is the instant of the OPEN's end as read on the Round Clock (R54).
  `order` is the order in which the blocks act on a round end that the alignment passes over (R62, R67). -/
  | openReceived (header : Header) (digest : Half) (cold leaving : Bool) (current : WindowSet) (position : Nat)
      (order : List RoundEndTask)
  | closeReceived (header : Header) (updates frames : Byte) (touched : WindowSet)
  | updReceived (header : Header) (window : WindowNo) (first : BitVec 4) (block : BitVec 10) (words : List Word)
  | updateApplied
  | ntcReceived (header : Header) (target : Byte) (level : BitVec 3) (tag : Half)
  | creqReceived (header : Header) (window : WindowNo) (attempt : BitVec 3) (first last : BitVec 10)
  | cbegReceived (header : Header) (joiner : StationNo) (window : WindowNo) (first last : BitVec 10)
  | cblkReceived (header : Header) (joiner : StationNo) (window : WindowNo) (block : BitVec 10) (words : List Word)
  | copiedBlockWritten
  | cendReceived (header : Header) (joiner : StationNo) (window : WindowNo) (count : Half)
  | ccanReceived (header : Header) (donor : StationNo) (window : WindowNo)
  | cabtReceived (header : Header) (joiner : StationNo) (window : WindowNo)
  | corruptReception
  | openReadback (intact : Bool)
  | updReadback (intact : Bool)
  | ntcReadback (intact : Bool)
  | creqReadback (intact : Bool)
  | cbegReadback (intact : Bool)
  | closeReadback (intact : Bool)
  | otherFrameReadback (intact : Bool)
  | slotStart (slot : Nat)
  | slotFrameOffer
  | copyReadGranted
  | openGraceExpiry (slot : Nat)
  | slotEnd (slot : Nat)
  | roundEnd
  | misalignedRoundTest
  | syncLoss
  | rosterSilenceCheck
  | peerSilent (station : StationNo)
  | coldMarkReduction
  | waitTimerExpiry
  | stallTimerExpiry
  | offerLapse
  | quietTimerExpiry
  | joinTimerExpiry
  | standoffTimerExpiry
  | leadFound
  | discardRunStart
  deriving DecidableEq, Repr

end Sys2Proof
end

