-- ==== Sys2Proof/Config.lean ====
section
/-! DEFINITION. Config.lean: what the part fixes (capacities, sizes) and the values the manual leaves open.
A value the manual leaves open is an opaque constant: no proof can see what it is. -/

namespace Sys2Proof.Config

/-- Store blocks of the replica store (R15). -/
def storeBlocks : Nat := 8192

/-- Entries the Outbound Queue holds at most (R97). -/
def outboundCapacity : Nat := 64

/-- Frames the Control Queue holds at most (R102). -/
def controlCapacity : Nat := 16

/-- Records the event queue holds at most (R169). -/
def eventCapacity : Nat := 32

/-- Records one notice level queue holds at most (R159). -/
def levelCapacity : Nat := 4

/-- Records the serving list holds at most (R145). -/
def servingCapacity : Nat := 4

/-- Notices a slot account holds at most (R115). -/
def heldCapacity : Nat := 253

/-- Where a count of a slot account stops (R115). -/
def accountCeiling : Nat := 255

/-- A completion carries the command code in one byte (R174), and a code may be any 32-bit value (R165).
The manual does not say what the byte holds when the code does not fit in it: a free value, applied to the code.
DESIGN CHOICE, log entry 5. -/
opaque wideCodeByte : Word → Byte

end Sys2Proof.Config
end

