-- ==== Sys2Proof/Machine/State.lean ====
section
/-! DEFINITION. Machine/State.lean: everything the station holds, as plain data, with its value after power-on reset.
A field that the manual calls absent is an Option; a thing with alternatives is an inductive type. -/

namespace Sys2Proof.Machine

/-- The station states, in the order of the table of section 5.1 (R79). -/
inductive StationState where
  | initialising | unconfigured | configured | listening | coldStart | active | leaving | standoff | muted
  deriving DecidableEq, Repr

/-- The causes of a STATION_STATE event, in the order of the table of R79. -/
inductive StationCause where
  | initDone | configure | join | matchingOpen | quietExpired | joinLimit | coldOpenIntact | coldOpenLost
  | openLost | syncLoss | standoffExpired | leave | leaveDone
  deriving DecidableEq, Repr

/-- How a held window may be reached by the host on-line (R2); a window not held has access code NONE. -/
inductive HoldMode where
  | read | write
  deriving DecidableEq, Repr

/-- Whether a window is held from its first blocks or its last (R2). -/
inductive Direction where
  | up | down
  deriving DecidableEq, Repr

/-- What a window record holds only while its access code is not NONE (R2). -/
structure Holding where
  mode : HoldMode
  count : Nat
  direction : Direction
  base : Nat
  deriving DecidableEq, Repr

/-- A window's standing, in the order of the table of R2. -/
inductive Currency where
  | unheld | stale | catchingUp | current | stranded
  deriving DecidableEq, Repr

/-- The causes of a WINDOW_STATE event, in the order of the table of R24. -/
inductive WindowCause where
  | configure | catchUpBegun | attemptFailed | catchUpDone | loss | coldStart | coldYield | leave | declare | resync
  deriving DecidableEq, Repr

/-- The failure kinds of an attempt, in the order of the table of R27. -/
inductive FailureKind where
  | waitExpired | stallExpired | donorAborted | incomplete | donorAbsent | loss
  deriving DecidableEq, Repr

/-- One record of the Window Table (R2), with the window's global length G (R1).
`holding` is none when the access code is NONE. -/
structure WindowRecord where
  globalLength : Nat := 0
  holding : Option Holding := none
  currency : Currency := .unheld
  attempts : Nat := 0
  written : Bool := false
  watch : Bool := false
  coldMark : Option Nat := none
  deriving DecidableEq, Repr

/-- The installed profile but for its window entries, which the Window Table holds (R58, R59, R166, R173).
`allotment` has one owner per slot index below S. -/
structure Profile where
  station : StationNo
  slots : Nat
  slotLength : Nat
  settle : Nat
  drain : Nat
  grace : Nat
  copyShare : Nat
  catchUpWait : Nat
  copyStall : Nat
  attemptLimit : Nat
  silenceLimit : Nat
  allotment : List StationNo
  digest : Half
  deriving DecidableEq, Repr

/-- An addressed run of bytes: (address, byte) pairs with rising addresses and no zero byte (Memory.wf in Ops.lean).
An address not listed reads as zero. -/
abbrev Memory := List Host.Cell

/-- The fault kinds of a host data access, in the order of the table of R174. -/
inductive AccessFault where
  | notAvailable | unheld | beyondWindow | outOfExtent | partialWord | notCurrent | readOnly | queueFull
  deriving DecidableEq, Repr

/-- Why a slot was lost (R124). -/
inductive SlotLossCause where
  | noClose | framesShort | inconsistent | unopened
  deriving DecidableEq, Repr

/-- How an account ended without a CLOSE (R124). -/
inductive AccountEnding where
  | nextOpen | expired
  deriving DecidableEq, Repr

/-- Why a peer left PRESENT (R78). -/
inductive DepartCause where
  | silent | orderly | foreign
  deriving DecidableEq, Repr

/-- The frame an OWN_FRAME_LOST event names (R112). -/
inductive LostFrame where
  | opn
  | upd (window : WindowNo) (block : BitVec 10) (first : BitVec 4) (count : Nat)
  | ntc (target : Byte) (level : BitVec 3) (tag : Half)
  deriving DecidableEq, Repr

/-- What an event reports, by its kind, in the order of the kinds of R174. -/
inductive EventDetail where
  | stationState (previous next : StationState) (cause : StationCause) (count : Nat)
  | windowState (previous next : Currency) (cause : WindowCause) (attempts : Nat) (failure : Option FailureKind)
  | windowChanged (sender : StationNo)
  | catchUpDone (donor : StationNo) (blocks attempt : Nat)
  | catchUpFailed (attempts : Nat) (failure : FailureKind)
  | coldYield (misaligned : Bool) (changed : Nat)
  | fenceDone (flushed : Bool)
  | outboundFlushed (updates notices : Nat) (headInFlight : Bool)
  | ownFrameLost (slot : Byte) (frame : LostFrame)
  | slotLoss (cause : SlotLossCause) (slot : Byte) (ending : Option AccountEnding) (frames updates : Nat)
      (closeCounts : Option (Byte × Byte)) (corrupt : Nat)
  | peerArrived (slot : Byte) (cold : Bool)
  | peerDeparted (cause : DepartCause) (lastHeard : Option Half)
  | hostFault (kind : AccessFault) (offset : Nat) (write : Bool)
  deriving DecidableEq, Repr

/-- A record of the event queue (R169). -/
structure Event where
  subject : Option Half
  round : Half
  detail : EventDetail
  deriving DecidableEq, Repr

/-- The completion statuses, in the order of R174. -/
inductive CompletionStatus where
  | done | busy | badState | badOperand | queueFull | empty | profileError
  deriving DecidableEq, Repr

/-- The profile error kinds, in the order of R174. -/
inductive ProfileErrorKind where
  | badGeometry | notAllotted | tooManyStations | badWindow | overlap | spanBeyondStore | badTimer
  deriving DecidableEq, Repr

/-- The completion record (R165, R174). -/
structure Completion where
  status : CompletionStatus := .done
  code : Byte := 0
  tag : Word := 0
  count : Half := 0
  result : Vector Word 16 := Vector.replicate 16 0
  deriving DecidableEq, Repr

/-- A CONFIGURE in flight: its tag and the staging area as it stood when it was taken (R166). -/
structure ConfigureInFlight where
  tag : Word
  staged : Memory
  deriving DecidableEq, Repr

/-- A data access as the bus presents it (R8). -/
structure HostAccess where
  address : BitVec 20
  lanes : Lanes
  access : BusAccess
  deriving DecidableEq, Repr

/-- A host claim: the access, and whether it was taken on-line, in ACTIVE or LEAVING (R12, R13). -/
structure HostClaim where
  access : HostAccess
  onLine : Bool
  deriving DecidableEq, Repr

/-- The response the host's last data access had (R11 to R14): a faulted read returns zero. -/
inductive BusResponse where
  | readDone (value : Word)
  | writeDone
  | readError
  | writeError
  deriving DecidableEq, Repr

/-- A frame claim on the store (R17): an update frame, with its sender when a peer's (R19), or a copied block (R20). -/
inductive FrameClaim where
  | update (peer : Option StationNo) (window : WindowNo) (storeBlock first : Nat) (words : List Word)
  | copied (window : WindowNo) (storeBlock : Nat) (words : List Word)
  deriving DecidableEq, Repr

/-- The frame the transmitter is sending, the transmit copy, and its start in the slot's count (R41, R104). -/
structure Sending where
  frame : Frame
  start : Nat
  deriving DecidableEq, Repr

/-- The receiver's states (R52); `off` while the station is off the line, when it takes nothing.  The bytes of a reception
in progress are not held (DESIGN CHOICE, log entry 7). -/
inductive Receiver where
  | off | hunting | receiving | discarding
  deriving DecidableEq, Repr

/-- The Round Clock (R60 to R70).
`syncLoss` holds a sync loss reported and not yet taken; `endedRound` is the number of the round that ended last. -/
structure Clock where
  position : Option Nat := none
  round : Half := 0
  misalignedCount : Nat := 0
  onTimeMark : Bool := false
  misalignedMark : Bool := false
  quiet : Option Nat := none
  join : Option Nat := none
  standoff : Option Nat := none
  foreignMark : Bool := false
  syncLoss : Bool := false
  endedRound : Half := 0
  deriving DecidableEq, Repr

/-- The states of a Roster record, in the order of R174 (R71). -/
inductive RosterState where
  | unknown | present | absent | foreign
  deriving DecidableEq, Repr

/-- A record of the Roster (R71). -/
structure RosterRecord where
  station : StationNo
  state : RosterState := .unknown
  silent : Nat := 0
  lastHeard : Option Half := none
  current : WindowSet := 0
  leaving : Bool := false
  deriving DecidableEq, Repr

/-- An entry of the Outbound Queue (R97); an UPDATE's count is the number of its words. -/
inductive OutboundEntry where
  | update (window : WindowNo) (block : BitVec 10) (first : BitVec 4) (words : List Word) (sealed : Bool)
  | notice (target : Byte) (level : BitVec 3) (tag : Half)
  | fence (tag : Half)
  deriving DecidableEq, Repr

/-- Where the Slot Filler stands in the slot (R105 to R110).
`opening`: the OPEN is not yet taken by the transmitter; `opened`: its readback is awaited; `control`, `outbound` and
`copy` are the steps; `close`: nothing but the CLOSE is left; `closing`: the CLOSE is taken; `abandoned`: the station
has left the line and a frame of the slot is still being driven (R80, R103). -/
inductive FillStep where
  | opening | opened | control | outbound | copy | close | closing | abandoned
  deriving DecidableEq, Repr

/-- An own slot start that found the Slot Filler FILLING (R103); `since` is the old slot's count at that start. -/
structure DeferredSlot where
  slot : Nat
  round : Half
  since : Nat
  deriving DecidableEq, Repr

/-- The own slot in progress (R103, R104, R110): the recorded slot and round, whether it is the LEAVING slot, the
count of byte times from its slot start, the step, the tally, and the CBLK frames sent in it. -/
structure Filling where
  slot : Nat
  round : Half
  leaving : Bool := false
  count : Nat := 0
  step : FillStep := .opening
  frames : Nat := 0
  updates : Nat := 0
  touched : WindowSet := 0
  copies : Nat := 0
  deferred : Option DeferredSlot := none
  deriving DecidableEq, Repr

/-- A notice record (R159). -/
structure Notice where
  sender : StationNo
  level : BitVec 3
  tag : Half
  round : Half
  deriving DecidableEq, Repr

/-- A slot account (R115).
`armed` holds the slots whose slot start was raised after the account opened, for its expiry timer (R120). -/
structure Account where
  sender : StationNo
  slot : Byte
  leaving : Bool
  updates : Nat := 0
  frames : Nat := 0
  corrupt : Nat := 0
  windows : WindowSet := 0
  held : List Notice := []
  armed : List Nat := []
  deriving DecidableEq, Repr

/-- The phase of the catch-up record with what it holds in that phase (R128): in REQUESTED the wait timer runs, in
COPYING a donor is named, the stall timer runs and blocks are received. -/
inductive CatchUpPhase where
  | requested (wait : Nat)
  | copying (donor : StationNo) (stall : Nat) (received : List Nat)
  deriving DecidableEq, Repr

/-- The catch-up record (R128). -/
structure CatchUp where
  window : WindowNo
  attempt : Nat
  phase : CatchUpPhase
  cancelled : List StationNo := []
  deriving DecidableEq, Repr

/-- The phase of a serving record; the next block is present in SERVING only (R145). -/
inductive ServePhase where
  | offered
  | serving (next : Nat)
  deriving DecidableEq, Repr

/-- A serving record of the Copy Server (R145). -/
structure ServingRecord where
  joiner : StationNo
  window : WindowNo
  first : Nat
  last : Nat
  phase : ServePhase
  beginRound : Half
  deriving DecidableEq, Repr

/-- One notice level queue and its overrun flag (R159). -/
structure LevelQueue where
  notices : List Notice := []
  overrun : Bool := false
  deriving DecidableEq, Repr

/-- The Notice Unit (R159, R161): index v - 1 holds level v. -/
structure NoticeUnit where
  levels : Vector LevelQueue 7 := Vector.replicate 7 {}
  threshold : Nat := 0
  deriving DecidableEq, Repr

/-- The station.  One line of INVENTORY.md's State heading names the rule of every field. -/
structure State where
  /-- Station Controller: the station state (R79). -/
  station : StationState
  /-- Station Controller: a LEAVE taken in COLD_START is pending (R95). -/
  leavePending : Bool
  /-- Station Controller: the own-OPEN failure count, 0 or 1 (R90). -/
  openFailures : Nat
  /-- The profile in force, with its digest (R57 to R59, R83). -/
  profile : Option Profile
  /-- Window Table: the 32 window records (R1, R2). -/
  windows : Vector WindowRecord 32
  /-- Replica Store: 8192 store blocks of 64 bytes (R15). -/
  store : Memory
  /-- Replica Store: the next store block of the init pass, while it runs (R16). -/
  initPass : Option Nat
  /-- Store arbiter: frame claims waiting, in line order (R17, R18). -/
  frameClaims : List FrameClaim
  /-- Store arbiter: the copy read waiting, by its serving record's joiner and window (R21). -/
  copyRead : Option (StationNo × WindowNo)
  /-- Store arbiter: the host claim waiting (R12, R13). -/
  hostClaim : Option HostClaim
  /-- Host Port: the response to the last data access, none while one is in progress or none has been made (R8, R11). -/
  busResponse : Option BusResponse
  /-- Host Port: the bytes of the control region the host writes, staging area and command record (R164, R174). -/
  region : Memory
  /-- Host Port: the completion record (R165). -/
  completion : Completion
  /-- Host Port: the CONFIGURE in flight (R83, R166). -/
  inFlight : Option ConfigureInFlight
  /-- Line Interface: the transmitter, none when IDLE (R41). -/
  transmitter : Option Sending
  /-- Line Interface: the receiver (R52). -/
  receiver : Receiver
  /-- The Round Clock (R60 to R70). -/
  clock : Clock
  /-- The Roster, in station-number order (R71). -/
  roster : List RosterRecord
  /-- The Outbound Queue, head first (R97). -/
  outbound : List OutboundEntry
  /-- The Control Queue, head first (R102). -/
  control : List FrameBody
  /-- Slot Filler: none when IDLE (R103). -/
  filler : Option Filling
  /-- Slot Filler: the round number and slot index of the last slot opened (R103). -/
  lastOpened : Option (Half × Nat)
  /-- Apply Unit: the open account (R115). -/
  account : Option Account
  /-- Resync Unit: the resync list, oldest first (R25). -/
  resync : List WindowNo
  /-- Resync Unit: the catch-up record (R128). -/
  catchUp : Option CatchUp
  /-- Copy Server: the serving list, oldest first (R145). -/
  serving : List ServingRecord
  /-- Copy Server: the turn, by its record's joiner and window (R151). -/
  turn : Option (StationNo × WindowNo)
  /-- The Notice Unit (R159). -/
  notices : NoticeUnit
  /-- Host Port: the event queue, head first (R169). -/
  events : List Event
  /-- Host Port: the overflow flag (R169). -/
  eventOverflow : Bool
  /-- The model's own: the commands waiting, first in, first out (DESIGN CHOICE, log entry 20). -/
  pending : List Instr
  deriving DecidableEq, Repr

/-- Why the machine stops with a fault. -/
inductive Fault where
  /-- A store claim names a store block above 8191, which the store does not have (R15).
  Raised by updateApplied, copiedBlockWritten, hostStoreClaimGranted, copyReadGranted and initPassStep.  Safe: no
  state that a run reaches holds such a claim, for a profile whose span leaves the store is refused (R3). -/
  | noSuchStoreBlock
  deriving DecidableEq, Repr

/-- Why the machine refuses a command. -/
inductive Refusal where
  /-- The command has no meaning yet.  No arm of exec answers it: every row is modelled.  Safe. -/
  | notModelled (mnemonic : String)
  deriving DecidableEq, Repr

/-- The station right after power-on reset (R81, R5, R16, R41, R61, R64, R103, R151, R159, R164, R165, R169): every
block at its power-on value, INITIALISING, the init pass about to zero store block 0.
The store's contents are not yet zeroed by the pass; the model lists none of them (DESIGN CHOICE, log entry 2), and what else
the manual gives no reset value for is named in log entry 21. -/
def State.reset : State where
  station := .initialising
  leavePending := false
  openFailures := 0
  profile := none
  windows := Vector.replicate 32 {}
  store := []
  initPass := some 0
  frameClaims := []
  copyRead := none
  hostClaim := none
  busResponse := none
  region := []
  completion := {}
  inFlight := none
  transmitter := none
  receiver := .off
  clock := {}
  roster := []
  outbound := []
  control := []
  filler := none
  lastOpened := none
  account := none
  resync := []
  catchUp := none
  serving := []
  turn := none
  notices := {}
  events := []
  eventOverflow := false
  pending := []

end Sys2Proof.Machine
end

