-- ==== Sys2Proof/Machine/Ops.lean ====
section
/-! DEFINITION. Machine/Ops.lean: the named operations over the state that the meanings share: memory, window records,
the event queue, the two transmit queues, the resync list, the sets. -/

namespace Sys2Proof.Machine

/-! ## Memory -/

/-- What the byte at an address reads as; an address not listed reads zero (R15 after the init pass, R164). -/
def Memory.read : Memory → Nat → Byte
  | [], _ => 0
  | (b, v) :: m, a => if a = b then v else Memory.read m a

/-- Write one byte, keeping the canonical form: rising addresses, no zero byte listed. -/
def Memory.write : Memory → Nat → Byte → Memory
  | [], a, v => if v = 0 then [] else [(a, v)]
  | (b, w) :: m, a, v =>
    if a < b then (if v = 0 then (b, w) :: m else (a, v) :: (b, w) :: m)
    else if a = b then (if v = 0 then m else (a, v) :: m)
    else (b, w) :: Memory.write m a v

/-- Every listed address is at least `lo`, addresses rise, and no zero byte is listed. -/
def Memory.wfFrom : Nat → Memory → Bool
  | _, [] => true
  | lo, (b, v) :: m => lo ≤ b && v != 0 && Memory.wfFrom (b + 1) m

/-- The canonical form of a memory. -/
def Memory.wf (m : Memory) : Bool := Memory.wfFrom 0 m

/-- Byte `i` of a word, the most significant byte first (R172). -/
def wordByte (w : Word) (i : Nat) : Byte := (w >>> (8 * (3 - i))).setWidth 8

/-- The word of four bytes, the most significant first (R172; DEDUCED for the store, log entry 16). -/
def wordOf (b0 b1 b2 b3 : Byte) : Word := b0 ++ b1 ++ b2 ++ b3

/-- The word whose first byte stands at an address (R172). -/
def Memory.readWord (m : Memory) (a : Nat) : Word :=
  wordOf (m.read a) (m.read (a + 1)) (m.read (a + 2)) (m.read (a + 3))

/-- The two-byte value at an address, high byte first (R172). -/
def Memory.readHalf (m : Memory) (a : Nat) : Half := m.read a ++ m.read (a + 1)

/-- Write a word at an address, the most significant byte first (R172). -/
def Memory.writeWord (m : Memory) (a : Nat) (w : Word) : Memory :=
  (((m.write a (wordByte w 0)).write (a + 1) (wordByte w 1)).write (a + 2) (wordByte w 2)).write (a + 3) (wordByte w 3)

/-- Write words one after the other from an address on. -/
def Memory.writeWords : Memory → Nat → List Word → Memory
  | m, _, [] => m
  | m, a, w :: ws => Memory.writeWords (m.writeWord a w) (a + 4) ws

/-- `n` words from an address on. -/
def Memory.readWords (m : Memory) : Nat → Nat → List Word
  | 0, _ => []
  | n + 1, a => m.readWord a :: Memory.readWords m n (a + 4)

/-- The byte address of a word of a store block: 64 bytes a block, 4 a word (R15). -/
def storeAddress (block word : Nat) : Nat := block * 64 + word * 4

/-- The store has a block of this number (R15). -/
def storeHas (block : Nat) : Bool := block < Config.storeBlocks

/-- The 16 words of a store block (R15). -/
def State.storeBlockWords (s : State) (block : Nat) : List Word := s.store.readWords 16 (storeAddress block 0)

/-- Write words into one store block from a word on (R19, R20, R12). -/
def State.writeStore (s : State) (block word : Nat) (words : List Word) : State :=
  { s with store := s.store.writeWords (storeAddress block word) words }

/-! ## Sets -/

/-- Add a member to a list that holds each member at most once. -/
def addOnce {α : Type} [DecidableEq α] (x : α) (l : List α) : List α := if x ∈ l then l else l ++ [x]

/-- The window is a member of the set (R172). -/
def WindowSet.has (set : WindowSet) (w : WindowNo) : Bool := BitVec.getLsbD set w.val

/-- Add a window to a set. -/
def WindowSet.add (set : WindowSet) (w : WindowNo) : WindowSet := set ||| BitVec.ofNat 32 (2 ^ w.val)

/-- The windows in window-number order. -/
def allWindows : List WindowNo := List.finRange 32

/-- The set of the windows that pass a test. -/
def WindowSet.ofTest (test : WindowNo → Bool) : WindowSet :=
  allWindows.foldl (fun set w => if test w then WindowSet.add set w else set) 0

/-! ## Window records -/

/-- The record of a window. -/
def State.window (s : State) (w : WindowNo) : WindowRecord := s.windows[w]

/-- Replace the record of a window. -/
def State.setWindow (s : State) (w : WindowNo) (r : WindowRecord) : State := { s with windows := s.windows.set w r }

/-- Change every window record. -/
def State.mapWindows (s : State) (f : WindowRecord → WindowRecord) : State :=
  { s with windows := Vector.ofFn fun i : Fin 32 => f s.windows[i] }

/-- The window is held: its access code is not NONE (R2). -/
def WindowRecord.isHeld (r : WindowRecord) : Bool := r.holding.isSome

/-- The first held block: 0 for UP and G - H for DOWN (R2). -/
def Holding.firstBlock (h : Holding) (globalLength : Nat) : Nat :=
  match h.direction with
  | .up => 0
  | .down => globalLength - h.count

/-- The block lies in the held extent, the first H blocks or the last H (R2). -/
def WindowRecord.inExtent (r : WindowRecord) (block : Nat) : Bool :=
  match r.holding with
  | none => false
  | some h => h.firstBlock r.globalLength ≤ block && block < h.firstBlock r.globalLength + h.count

/-- The store block a held block is kept at: local base + (b - first held block) (R2); none outside the extent. -/
def WindowRecord.storeBlock (r : WindowRecord) (block : Nat) : Option Nat :=
  match r.holding with
  | none => none
  | some h => if r.inExtent block then some (h.base + (block - h.firstBlock r.globalLength)) else none

/-- The first block of the held extent; 0 where nothing is held. -/
def WindowRecord.firstHeld (r : WindowRecord) : Nat :=
  match r.holding with
  | none => 0
  | some h => h.firstBlock r.globalLength

/-- The number of held blocks; 0 where nothing is held. -/
def WindowRecord.heldCount (r : WindowRecord) : Nat :=
  match r.holding with
  | none => 0
  | some h => h.count

/-- The last block of the held extent. -/
def WindowRecord.lastHeld (r : WindowRecord) : Nat := r.firstHeld + r.heldCount - 1

/-- A window whose currency admits frames from the line: CURRENT or CATCHING_UP (R22). -/
def WindowRecord.admits (r : WindowRecord) : Bool := r.currency = .current || r.currency = .catchingUp

/-- The window a frame names is unused on the line: its G is 0 (R1). -/
def State.unused (s : State) (w : WindowNo) : Bool := (s.window w).globalLength = 0

/-- The windows advertised as CURRENT (R23). -/
def State.currentSet (s : State) : WindowSet := WindowSet.ofTest fun w => (s.window w).currency = .current

/-- The held windows as a set (R23, R32). -/
def State.heldSet (s : State) : WindowSet := WindowSet.ofTest fun w => (s.window w).isHeld

/-- The held windows in window-number order (R31). -/
def State.heldWindows (s : State) : List WindowNo := allWindows.filter fun w => (s.window w).isHeld

/-- The held windows that are not STALE, counted (R79). -/
def State.heldNotStale (s : State) : Nat :=
  (allWindows.filter fun w => (s.window w).isHeld && (s.window w).currency != .stale).length

/-- Set a window's written flag (R6). -/
def State.setWritten (s : State) (w : WindowNo) : State := s.setWindow w { s.window w with written := true }

/-! ## Events -/

/-- Append an event: at the tail while fewer than 32 are held, or else dropped with the overflow flag set (R169). -/
def State.appendEvent (s : State) (e : Event) : State :=
  { s with
    events := if s.events.length < Config.eventCapacity then s.events ++ [e] else s.events
    eventOverflow := s.eventOverflow || !decide (s.events.length < Config.eventCapacity) }

/-- Append an event whose round is the one the Round Clock holds (R60). -/
def State.event (s : State) (subject : Option Half) (detail : EventDetail) : State :=
  s.appendEvent ⟨subject, s.clock.round, detail⟩

/-- A number of one byte or less as an event's subject (R174). -/
def subjectOf (n : Nat) : Option Half := some (BitVec.ofNat 16 n)

/-- This station's number as a subject, absent when no profile is installed (R79). -/
def State.ownSubject (s : State) : Option Half := s.profile.map fun p => BitVec.setWidth 16 p.station

/-! ## Queues -/

/-- Append a frame to the Control Queue; at 16 frames it is not queued (R102). -/
def State.queueControl (s : State) (f : FrameBody) : State :=
  { s with control := if s.control.length < Config.controlCapacity then s.control ++ [f] else s.control }

/-- Unqueue a frame named by its kind and fields; nothing when it is not in the queue (R102). -/
def State.unqueueControl (s : State) (f : FrameBody) : State := { s with control := s.control.erase f }

/-- Append an entry to the Outbound Queue; its callers test the capacity first (R98, R100, R101). -/
def State.appendOutbound (s : State) (e : OutboundEntry) : State := { s with outbound := s.outbound ++ [e] }

/-- A window joins the resync list at its tail, once (R25). -/
def State.joinResync (s : State) (w : WindowNo) : State := { s with resync := addOnce w s.resync }

/-- The FENCE entries that stand at the head complete one after the other (R101). -/
def fencesAtHead : List OutboundEntry → List Half
  | .fence tag :: rest => tag :: fencesAtHead rest
  | _ => []

/-- The queue less the FENCE entries at its head. -/
def dropFences : List OutboundEntry → List OutboundEntry
  | .fence _ :: rest => dropFences rest
  | l => l

/-- Append one FENCE_DONE per tag (R101, R113). -/
def State.fenceEvents (s : State) (flushed : Bool) (tags : List Half) : State :=
  tags.foldl (fun s tag => s.event (some tag) (.fenceDone flushed)) s

/-- Each FENCE at the head of the Outbound Queue is removed and completes SENT, in queue order (R101). -/
def State.completeFences (s : State) : State :=
  { s with outbound := dropFences s.outbound }.fenceEvents false (fencesAtHead s.outbound)

/-! ## Station states -/

/-- The states in which the receiver takes bytes (R52). -/
def StationState.onLine : StationState → Bool
  | .initialising | .unconfigured | .configured => false
  | .listening | .coldStart | .active | .leaving | .standoff | .muted => true

/-- ACTIVE or LEAVING: the station takes part in the line. -/
def StationState.takesPart : StationState → Bool
  | .active | .leaving => true
  | .initialising | .unconfigured | .configured | .listening | .coldStart | .standoff | .muted => false

/-- The Round Clock's modes (R61). -/
inductive ClockMode where
  | stopped | free | running
  deriving DecidableEq, Repr

/-- The mode the station state sets (R61). -/
def StationState.clockMode : StationState → ClockMode
  | .initialising | .unconfigured | .configured => .stopped
  | .listening | .standoff | .muted => .free
  | .coldStart | .active | .leaving => .running

/-- Change the station state and report it; the event's subject and round are those that stand after (R79). -/
def State.enter (s : State) (next : StationState) (cause : StationCause) (count : Nat) : State :=
  { s with station := next }.event s.ownSubject (.stationState s.station next cause count)

end Sys2Proof.Machine
end

