-- ==== Sys2Proof/Machine/Flags.lean ====
section
/-! DEFINITION. Machine/Flags.lean: every flag and line that is decided from other state: the EVENT line (R169), the
NOTICE line and the highest notice level (R161), the advertised windows (R77), the young cold grant (R33), whether a
sender is foreign (R74), whether the host may access data (R10). -/

namespace Sys2Proof.Machine

/-- The EVENT line: asserted while the event queue holds at least one record (R169). -/
def State.eventLine (s : State) : Bool := !s.events.isEmpty

/-- The queue of a level 1 to 7. -/
def NoticeUnit.queue (n : NoticeUnit) (i : Fin 7) : LevelQueue := n.levels[i]

/-- The highest level whose queue is non-empty, as its index, level less one (R161). -/
def NoticeUnit.highest (n : NoticeUnit) : Option (Fin 7) :=
  [(6 : Fin 7), 5, 4, 3, 2, 1, 0].find? fun i => !(n.queue i).notices.isEmpty

/-- The highest notice level: 1 to 7, or 0 when every level is empty (R161). -/
def NoticeUnit.highestLevel (n : NoticeUnit) : Nat :=
  match n.highest with
  | none => 0
  | some i => i.val + 1

/-- The NOTICE line: asserted while the highest waiting level is greater than the threshold (R161). -/
def State.noticeLine (s : State) : Bool := s.notices.threshold < s.notices.highestLevel

/-- The free outbound entries: 64 less the entries held (R97). -/
def State.freeOutbound (s : State) : Nat := Config.outboundCapacity - s.outbound.length

/-- At least one PRESENT record's current set contains the window (R77). -/
def State.advertised (s : State) (w : WindowNo) : Bool :=
  s.roster.any fun r => r.state = .present && WindowSet.has r.current w

/-- The station holds a young cold grant: a window of it carries a cold mark (R33). -/
def State.youngColdGrant (s : State) : Bool := allWindows.any fun w => (s.window w).coldMark.isSome

/-- The Roster record of a station. -/
def State.rosterOf (s : State) (station : StationNo) : Option RosterRecord :=
  s.roster.find? fun r => r.station = station

/-- The sender's record is FOREIGN, or the sender has none (R74, R117). -/
def State.foreignSender (s : State) (sender : StationNo) : Bool :=
  match s.rosterOf sender with
  | none => true
  | some r => r.state = .foreign

/-- This station's number, where a profile is installed. -/
def State.isSelf (s : State) (station : StationNo) : Bool :=
  match s.profile with
  | none => false
  | some p => p.station = station

/-- The state allows host data access (R10). -/
def State.hostAccessAllowed (s : State) : Bool :=
  match s.station with
  | .configured => s.inFlight.isNone
  | .active | .leaving => true
  | .initialising | .unconfigured | .listening | .coldStart | .standoff | .muted => false

/-- An intact OPEN is judged foreign: its digest differs, its slot index is S or more, or its sender does not own the
slot it names (R65). -/
def Profile.foreignOpen (p : Profile) (h : Header) (digest : Half) : Bool :=
  digest != p.digest || p.slots ≤ h.slotIndex.toNat || p.allotment[h.slotIndex.toNat]? != some h.sender

end Sys2Proof.Machine
end

