-- ==== Sys2Proof/Machine/Notices.lean ====
section
/-! DEFINITION. Machine/Notices.lean: the level queues of the Notice Unit (chapter 10). -/

namespace Sys2Proof.Machine

/-- The queue index of a level 1 to 7; none for level 0, which no notice has (R53, R159). -/
def levelIndex (level : BitVec 3) : Option (Fin 7) :=
  if h : 1 ≤ level.toNat ∧ level.toNat - 1 < 7 then some ⟨level.toNat - 1, h.2⟩ else none

/-- A notice arrives at its level's queue: appended while fewer than 4 are held, or dropped with the overrun flag set
(R160). -/
def LevelQueue.arrive (q : LevelQueue) (n : Notice) : LevelQueue :=
  if q.notices.length < Config.levelCapacity then { q with notices := q.notices ++ [n] } else { q with overrun := true }

/-- Replace the queue of a level. -/
def NoticeUnit.setQueue (u : NoticeUnit) (i : Fin 7) (q : LevelQueue) : NoticeUnit := { u with levels := u.levels.set i q }

/-- The Notice Unit takes a delivered notice (R160). -/
def State.deliver (s : State) (n : Notice) : State :=
  match levelIndex n.level with
  | none => s
  | some i => { s with notices := s.notices.setQueue i ((s.notices.queue i).arrive n) }

/-- Notices are taken in the order delivered, each in full before the next (R160). -/
def State.deliverAll (s : State) (l : List Notice) : State := l.foldl State.deliver s

end Sys2Proof.Machine
end

