-- ==== Sys2Proof/Machine/CopyServer.lean ====
section
/-! DEFINITION. Machine/CopyServer.lean: the donor's side of catch-up (chapter 9): the serving list, the turn, the
offers and their endings, and the command OFFER_LAPSE. -/

namespace Sys2Proof.Machine

/-- The pair that names a serving record, for no two records have the same joiner and window (R145). -/
def ServingRecord.pair (r : ServingRecord) : StationNo × WindowNo := (r.joiner, r.window)

/-- The CBEG of a serving record (R146). -/
def ServingRecord.cbeg (r : ServingRecord) : FrameBody :=
  .cbeg r.joiner r.window (BitVec.ofNat 10 r.first) (BitVec.ofNat 10 r.last)

/-- The record is in phase SERVING. -/
def ServingRecord.isServing (r : ServingRecord) : Bool :=
  match r.phase with
  | .offered => false
  | .serving _ => true

/-- The blocks a SERVING record has yet to send, from its next block to its last (R107). -/
def ServingRecord.remaining (r : ServingRecord) : Nat :=
  match r.phase with
  | .offered => 0
  | .serving next => r.last + 1 - next

/-- The record that stands just before a pair's record in list order (R151). -/
def recordBefore (pair : StationNo × WindowNo) : Option (StationNo × WindowNo) → List ServingRecord →
    Option (StationNo × WindowNo)
  | _, [] => none
  | before, r :: rest => if r.pair = pair then before else recordBefore pair (some r.pair) rest

/-- The copy step stops for this slot; nothing but the CLOSE is left (R109). -/
def Filling.stopCopy (f : Filling) : Filling :=
  match f.step with
  | .copy => { f with step := .close }
  | _ => f

/-- A serving record leaves the list: the turn moves to the record before it (R151), and a copy read that waits for it
is withdrawn, which stops the copy step (R21, R109). -/
def State.removeServing (s : State) (pair : StationNo × WindowNo) : State :=
  { s with
    serving := s.serving.filter fun r => r.pair != pair
    turn := if s.turn = some pair then recordBefore pair none s.serving else s.turn
    copyRead := if s.copyRead = some pair then none else s.copyRead
    filler := if s.copyRead = some pair then s.filler.map Filling.stopCopy else s.filler }

/-- A record ends and its CBEG is unqueued if it is still queued (R146, R148 to R150, R155). -/
def State.dropServing (s : State) (r : ServingRecord) : State := (s.removeServing r.pair).unqueueControl r.cbeg

/-- A CABT to the joiner of a record is queued (R93, R154). -/
def State.tellJoiner (s : State) (r : ServingRecord) : State := s.queueControl (.cabt r.joiner r.window)

/-- A record ends with a CABT to its joiner (R154). -/
def State.abortRecord (s : State) (r : ServingRecord) : State :=
  (s.tellJoiner r).dropServing r

/-- Every record of a window ends with a CABT, in list order: the window has left CURRENT (R154). -/
def State.abortServing (s : State) (w : WindowNo) : State :=
  (s.serving.filter fun r => r.window = w).foldl State.abortRecord s

/-- LEAVE in ACTIVE: a CABT for each record, in list order, then the list is emptied and the queued CBEGs are unqueued, in
the order of R156's table (R93, R156). -/
def State.abortAllServing (s : State) : State :=
  { s.serving.foldl State.dropServing (s.serving.foldl State.tellJoiner s) with turn := none }

/-- The records of a joiner that has departed end, in list order, without a CABT (R155). -/
def State.joinerDeparted (s : State) (station : StationNo) : State :=
  (s.serving.filter fun r => r.joiner = station).foldl State.dropServing s

/-- The record for a joiner and window. -/
def State.servingOf (s : State) (joiner : StationNo) (w : WindowNo) : Option ServingRecord :=
  s.serving.find? fun r => r.joiner = joiner && r.window = w

/-- The conditions of an offer that concern this station (R146): ACTIVE, a copy share above 0, the window CURRENT and
both ends of the range in the held extent. -/
def State.mayOffer (s : State) (w : WindowNo) (first last : Nat) : Bool :=
  s.station = .active && (match s.profile with | none => false | some p => 0 < p.copyShare) &&
    (s.window w).currency = .current && (s.window w).inExtent first && (s.window w).inExtent last

/-- The record for a pair, if any, is removed (the first part of R146). -/
def State.clearOffer (s : State) (joiner : StationNo) (w : WindowNo) : State :=
  match s.servingOf joiner w with
  | none => s
  | some r => s.dropServing r

/-- A record is created OFFERED at the tail and its CBEG is queued; with 4 records held nothing is (R146). -/
def State.createOffer (s : State) (joiner : StationNo) (w : WindowNo) (first last : BitVec 10) : State :=
  if s.serving.length < Config.servingCapacity then
    let record : ServingRecord :=
      { joiner, window := w, first := first.toNat, last := last.toNat, phase := .offered, beginRound := s.clock.round }
    ({ s with serving := s.serving ++ [record] } : State).queueControl (.cbeg joiner w first last)
  else s

/-- A CREQ of a joiner is answered with an offer or ignored (R146). -/
def State.takeCreq (s : State) (joiner : StationNo) (w : WindowNo) (first last : BitVec 10) : State :=
  if s.mayOffer w first.toNat last.toNat then (s.clearOffer joiner w).createOffer joiner w first last else s

/-- A CBEG of another station withdraws this station's OFFERED record for the same joiner and window (R149). -/
def State.withdrawOffer (s : State) (joiner : StationNo) (w : WindowNo) : State :=
  match s.servingOf joiner w with
  | none => s
  | some r => if r.isServing then s else s.dropServing r

/-- A CCAN naming this station removes the record for its sender and window (R150). -/
def State.takeCcan (s : State) (joiner : StationNo) (w : WindowNo) : State := s.clearOffer joiner w

/-- The OFFERED record of a CBEG that has been read back becomes SERVING at its first block, unless its own CBEG is
still queued (R147). -/
def State.cbegReported (s : State) (joiner : StationNo) (w : WindowNo) : State :=
  { s with serving := s.serving.map fun r =>
      if r.joiner = joiner && r.window = w && !r.isServing && !s.control.contains r.cbeg then
        { r with phase := .serving r.first }
      else r }

/-- The first SERVING record after the turn's record, wrapping, the turn's record last; without a turn the first in
list order (R151). -/
def State.chooseServing (s : State) : Option ServingRecord :=
  match s.turn with
  | none => s.serving.find? ServingRecord.isServing
  | some pair =>
    let i := s.serving.findIdx fun r => r.pair = pair
    ((s.serving.drop (i + 1)) ++ (s.serving.take (i + 1))).find? ServingRecord.isServing

/-- The blocks that the serving list could still send (R107). -/
def State.blocksToSend (s : State) : Nat := (s.serving.map ServingRecord.remaining).sum

/-- The OFFERED record is at least 3 rounds old at the end of a round, modulo 65536 (R148). -/
def ServingRecord.lapsed (r : ServingRecord) (ended : Half) : Bool :=
  !r.isServing && 3 ≤ (ended - r.beginRound).toNat

/-- Every OFFERED record that is 3 rounds old or more lapses (R148). -/
def State.lapseOffers (s : State) : State :=
  if s.station = .active then (s.serving.filter fun r => r.lapsed s.clock.endedRound).foldl State.dropServing s else s

/-- OFFER_LAPSE (R148): the Copy Server's action on a round end. -/
def execOfferLapse (s : State) : Host.Outcome State Fault Refusal := .next s.lapseOffers

end Sys2Proof.Machine
end

