-- ==== Sys2Proof/Machine/Currency.lean ====
section
/-! DEFINITION. Machine/Currency.lean: every change of a window's currency (chapter 2) and the joining side of catch-up
(chapter 8): beginning, failing and ending an attempt, a loss, and the commands WAIT_TIMER_EXPIRY, STALL_TIMER_EXPIRY and
COLD_MARK_REDUCTION. -/

namespace Sys2Proof.Machine

/-- A window's currency and attempt count change; leaving CURRENT takes the cold mark (R33), the change is reported by a
WINDOW_STATE event (R24), and leaving CURRENT while ACTIVE ends the serving records (R23, R154). -/
def State.changeCurrency (s : State) (w : WindowNo) (next : Currency) (attempts : Nat) (cause : WindowCause)
    (failure : Option FailureKind) : State :=
  let previous := (s.window w).currency
  let changed := (s.setWindow w { s.window w with currency := next, attempts := attempts, coldMark := none }).event
    (subjectOf w.val) (.windowState previous next cause attempts failure)
  if previous = .current ∧ next ≠ .current ∧ s.station = .active then changed.abortServing w else changed

/-- The CREQ of an attempt: the window, the first and last held blocks, the attempt number (R130). -/
def WindowRecord.creq (r : WindowRecord) (w : WindowNo) (attempt : Nat) : FrameBody :=
  .creq w (BitVec.ofNat 3 attempt) (BitVec.ofNat 10 r.firstHeld) (BitVec.ofNat 10 r.lastHeld)

/-- The catch-up record is removed and the CREQ of the attempt, if still queued, is unqueued (R140, R141). -/
def State.dropRequest (s : State) (c : CatchUp) : State :=
  ({ s with catchUp := none } : State).unqueueControl ((s.window c.window).creq c.window c.attempt)

/-- The Control Queue's side of a failed attempt (R140): the CREQ is unqueued in REQUESTED; a CCAN to the donor is
queued for STALL_EXPIRED and LOSS, unless the donor is in the cancelled set. -/
def State.failControl (s : State) (c : CatchUp) (kind : FailureKind) : State :=
  match c.phase with
  | .requested _ => s.dropRequest c
  | .copying donor _ _ =>
    if (kind = .stallExpired ∨ kind = .loss) ∧ donor ∉ c.cancelled then
      ({ s with catchUp := none } : State).queueControl (.ccan donor c.window)
    else { s with catchUp := none }

/-- The attempt limit of the profile in force (R28). -/
def State.attemptLimit (s : State) : Nat :=
  match s.profile with
  | none => 0
  | some p => p.attemptLimit

/-- The window of a failed attempt: STALE at the tail of the resync list below the limit, STRANDED at it (R27). -/
def State.failWindow (s : State) (w : WindowNo) (kind : FailureKind) : State :=
  let n := (s.window w).attempts + 1
  if n < s.attemptLimit then (s.changeCurrency w .stale n .attemptFailed (some kind)).joinResync w
  else (s.changeCurrency w .stranded n .attemptFailed (some kind)).event (subjectOf w.val) (.catchUpFailed n kind)

/-- The attempt in progress fails (R140, R27). -/
def State.failAttempt (s : State) (kind : FailureKind) : State :=
  match s.catchUp with
  | none => s
  | some c => (s.failControl c kind).failWindow c.window kind

/-- A loss against a window, by its currency (R30). -/
def State.loss (s : State) (w : WindowNo) : State :=
  match (s.window w).currency with
  | .current =>
    let changed := s.changeCurrency w .stale (s.window w).attempts .loss none
    if s.station = .active then changed.joinResync w else changed
  | .catchingUp => s.failAttempt .loss
  | .stale | .stranded | .unheld => s

/-- A loss against every window that passes a test, in window-number order (R30). -/
def State.losses (s : State) (test : WindowNo → Bool) : State := (allWindows.filter test).foldl State.loss s

/-- Begin an attempt: the record in REQUESTED, the window CATCHING_UP and off the list, the CREQ queued (R26, R130). -/
def State.beginAttempt (s : State) (w : WindowNo) : State :=
  let attempt := (s.window w).attempts + 1
  let wait := match s.profile with | none => 0 | some p => p.catchUpWait
  let started := { s with
    catchUp := some { window := w, attempt, phase := .requested wait }
    resync := s.resync.erase w }
  (started.queueControl ((s.window w).creq w attempt)).changeCurrency w .catchingUp (s.window w).attempts .catchUpBegun none

/-- The silence limit of the profile in force (R75). -/
def State.silenceLimit (s : State) : Nat :=
  match s.profile with
  | none => 0
  | some p => p.silenceLimit

/-- The record is PRESENT and its silent rounds have reached the silence limit (R75). -/
def RosterRecord.isSilent (r : RosterRecord) (limit : Nat) : Bool := r.state = .present && r.silent = limit

/-- The Roster's examination of the round that ended has departures still to come: it is one happening, whose departures are
rows of their own (R62, R75, R91; log entry 8). -/
def State.departureDue (s : State) : Bool := s.roster.any fun r => r.isSilent s.silenceLimit

/-- The test of R129: in ACTIVE with no record, the oldest listed window that is advertised is tried.  It comes after
everything else that the happening does, so that it waits while a departure of the Roster's examination is still to come. -/
def State.tryBegin (s : State) : State :=
  if s.station = .active ∧ s.catchUp = none ∧ s.departureDue = false then
    match s.resync.find? s.advertised with
    | none => s
    | some w => s.beginAttempt w
  else s

/-- The attempt ends in success: the window is CURRENT and CATCHUP_DONE follows (R29, R142). -/
def State.succeed (s : State) (c : CatchUp) (donor : StationNo) : State :=
  (({ s with catchUp := none } : State).changeCurrency c.window .current 0 .catchUpDone none).event (subjectOf c.window.val)
    (.catchUpDone donor (s.window c.window).heldCount c.attempt)

/-- The received set contains every block of the held extent (R136, R142). -/
def WindowRecord.complete (r : WindowRecord) (received : List Nat) : Bool :=
  (List.range r.heldCount).all fun i => received.contains (r.firstHeld + i)

/-- The donor of an attempt in COPYING has departed (R138). -/
def State.donorDeparted (s : State) (station : StationNo) : State :=
  match s.catchUp with
  | some { phase := .copying donor _ _, .. } => if donor = station then s.failAttempt .donorAbsent else s
  | _ => s

/-- A stray is told once to stop: while a record exists, once for each station and attempt; while none exists, only on
its CBEG (R135). -/
def State.stray (s : State) (station : StationNo) (w : WindowNo) (isCbeg : Bool) : State :=
  match s.catchUp with
  | none => if isCbeg then s.queueControl (.ccan station w) else s
  | some c =>
    if station ∈ c.cancelled then s
    else
      ({ s with catchUp := some { c with cancelled := addOnce station c.cancelled } } : State).queueControl (.ccan station w)

/-- The copy stall of the profile in force (R130). -/
def State.copyStall (s : State) : Nat :=
  match s.profile with
  | none => 0
  | some p => p.copyStall

/-- The catch-up wait of the profile in force (R130). -/
def State.catchUpWait (s : State) : Nat :=
  match s.profile with
  | none => 0
  | some p => p.catchUpWait

/-- A CBEG that names this station as joiner (R133). -/
def State.joinerCbeg (s : State) (sender : StationNo) (w : WindowNo) : State :=
  match s.catchUp with
  | none => s.stray sender w true
  | some c =>
    if c.window ≠ w then s.stray sender w true
    else match c.phase with
      | .requested _ =>
        if sender ∈ c.cancelled then s
        else { s with catchUp := some { c with phase := .copying sender s.copyStall [] } }
      | .copying donor _ _ =>
        if donor = sender then { s with catchUp := some { c with phase := .copying donor s.copyStall [] } }
        else s.stray sender w true

/-- A CBLK that names this station as joiner (R134): admitted from the donor for a held block of the record's window,
it becomes a frame claim, joins the received set and starts the stall timer again.  DEDUCED: in REQUESTED any sender is a
stray by R134, one that was the donor of an attempt its departure failed included, where R138 has its frames ignored (log
entry 25). -/
def State.joinerCblk (s : State) (sender : StationNo) (w : WindowNo) (block : Nat) (words : List Word) : State :=
  match s.catchUp with
  | some { window := cw, attempt := attempt, phase := .copying donor _ received, cancelled := cancelled } =>
    if cw = w ∧ donor = sender then
      match (s.window w).storeBlock block with
      | none => s
      | some b => { s with
          frameClaims := s.frameClaims ++ [.copied w b words]
          catchUp := some { window := cw, attempt := attempt, phase := .copying donor s.copyStall (addOnce block received),
                            cancelled := cancelled } }
    else s.stray sender w false
  | _ => s.stray sender w false

/-- A CEND that names this station as joiner: the donor's ends the attempt (R136). -/
def State.joinerCend (s : State) (sender : StationNo) (w : WindowNo) : State :=
  match s.catchUp with
  | some { window := cw, attempt := attempt, phase := .copying donor stall received, cancelled := cancelled } =>
    if cw = w ∧ donor = sender then
      if (s.window w).complete received then
        s.succeed { window := cw, attempt := attempt, phase := .copying donor stall received, cancelled := cancelled } donor
      else s.failAttempt .incomplete
    else s
  | _ => s

/-- A CABT that names this station as joiner: the donor's fails the attempt (R137). -/
def State.joinerCabt (s : State) (sender : StationNo) (w : WindowNo) : State :=
  match s.catchUp with
  | some { window := cw, phase := .copying donor _ _, .. } =>
    if cw = w ∧ donor = sender then s.failAttempt .donorAborted else s
  | _ => s

/-- The readback of a CREQ starts the wait timer of its attempt again (R131). -/
def State.creqReported (s : State) (w : WindowNo) (attempt : BitVec 3) : State :=
  match s.catchUp with
  | some { window := cw, attempt := n, phase := .requested _, cancelled := cancelled } =>
    if cw = w ∧ n = attempt.toNat then
      { s with catchUp := some { window := cw, attempt := n, phase := .requested s.catchUpWait, cancelled := cancelled } }
    else s
  | _ => s

/-- A round end reduces the running timer of the record by one, while ACTIVE (R132). -/
def State.reduceTimers (s : State) : State :=
  match s.catchUp with
  | none => s
  | some c =>
    if s.station = .active then
      match c.phase with
      | .requested wait => { s with catchUp := some { c with phase := .requested (wait - 1) } }
      | .copying donor stall received => { s with catchUp := some { c with phase := .copying donor (stall - 1) received } }
    else s

/-- The wait timer has reached 0 (R132). -/
def State.waitExpired (s : State) : Bool :=
  match s.catchUp with
  | some { phase := .requested wait, .. } => wait = 0
  | _ => false

/-- The stall timer has reached 0 (R132). -/
def State.stallExpired (s : State) : Bool :=
  match s.catchUp with
  | some { phase := .copying _ stall _, .. } => stall = 0
  | _ => false

/-- The attempt whose wait timer has reached 0 fails WAIT_EXPIRED. -/
def State.expireWait (s : State) : State := if s.waitExpired then s.failAttempt .waitExpired else s

/-- The attempt whose stall timer has reached 0 fails STALL_EXPIRED. -/
def State.expireStall (s : State) : State := if s.stallExpired then s.failAttempt .stallExpired else s

/-- A cold mark less one; a mark that would fall to 0 is removed (R33). -/
def WindowRecord.reduceMark (r : WindowRecord) : WindowRecord :=
  match r.coldMark with
  | none => r
  | some n => { r with coldMark := if n ≤ 1 then none else some (n - 1) }

/-- The Window Table's action on a round end, while ACTIVE (R33). -/
def State.reduceColdMarks (s : State) : State :=
  if s.station = .active then s.mapWindows WindowRecord.reduceMark else s

/-- COLD_MARK_REDUCTION (R33). -/
def execColdMarkReduction (s : State) : Host.Outcome State Fault Refusal := .next s.reduceColdMarks

/-- WAIT_TIMER_EXPIRY (R132): the attempt whose wait timer has reached 0 fails; the next may begin (R129).  A timer that
has gone with its record does not expire, and nothing follows. -/
def execWaitTimerExpiry (s : State) : Host.Outcome State Fault Refusal := .next s.expireWait.tryBegin

/-- STALL_TIMER_EXPIRY (R132): as WAIT_TIMER_EXPIRY for the stall timer. -/
def execStallTimerExpiry (s : State) : Host.Outcome State Fault Refusal := .next s.expireStall.tryBegin

end Sys2Proof.Machine
end

