-- ==== Sys2Proof/Machine/Rounds.lean ====
section
/-! DEFINITION. Machine/Rounds.lean: the geometry of the round (R58 to R60), the instants of its happenings (R62), the
lengths of the protocol timers (R64), and the nearest expected end of an OPEN (R66). -/

namespace Sys2Proof.Machine

/-- The round length, settle + S × L + drain (R60). -/
def Profile.roundLength (p : Profile) : Nat := p.settle + p.slots * p.slotLength + p.drain

/-- The position at which slot k starts (R60). -/
def Profile.slotStart (p : Profile) (k : Nat) : Nat := p.settle + k * p.slotLength

/-- The expected end of slot k's OPEN (R66). -/
def Profile.openEnd (p : Profile) (k : Nat) : Nat := p.slotStart k + 20

/-- The owner of slot k; none for a slot index of S or more (R59). -/
def Profile.owner (p : Profile) (k : Nat) : Option StationNo := p.allotment[k]?

/-- Slot k is one of this station's own (R59). -/
def Profile.owns (p : Profile) (k : Nat) : Bool := p.owner k = some p.station

/-- The station's lowest owned slot (R59). -/
def Profile.lowestOwned (p : Profile) : Nat := p.allotment.findIdx (· = p.station)

/-- The distinct stations of the allotment other than this one, in station-number order (R71). -/
def Profile.peers (p : Profile) : List StationNo :=
  ((List.range 64).map (BitVec.ofNat 8)).filter fun st => p.allotment.contains st && st != p.station

/-- The quiet timer's length (R64). -/
def Profile.quietLength (p : Profile) : Nat := p.roundLength + 256 * p.station.toNat

/-- The join timer's length (R64). -/
def Profile.joinLength (p : Profile) : Nat := 8 * p.roundLength

/-- The standoff timer's length (R64). -/
def Profile.standoffLength (p : Profile) : Nat := (1 + p.station.toNat % 16) * p.roundLength

/-- The happenings that the Round Clock raises as its position reaches an instant (R62). -/
inductive Happening where
  | slotEnd (k : Nat)
  | slotStart (k : Nat)
  | graceExpiry (k : Nat)
  | roundEnd
  deriving DecidableEq, Repr

/-- The happenings of slot k at a position. -/
def Profile.slotHappenings (p : Profile) (position k : Nat) : List Happening :=
  (if position = p.slotStart k + p.slotLength then [.slotEnd k] else []) ++
  (if position = p.slotStart k then [.slotStart k] else []) ++
  (if position = p.slotStart k + 20 + p.grace then [.graceExpiry k] else [])

/-- The happenings whose instant is a position: the end of slot k stands before the start of slot k + 1 (R62). -/
def Profile.happenings (p : Profile) (position : Nat) : List Happening :=
  ((List.range p.slots).map (p.slotHappenings position)).flatten ++
  (if position = p.roundLength then [.roundEnd] else [])

/-- The distance, signed, from an instant to the nearest occurrence of the expected end of slot k's OPEN: in the
current round, the round before or the round after (R66). -/
def Profile.openOffset (p : Profile) (k instant : Nat) : Int :=
  let here : Int := (p.openEnd k : Int) - instant
  let before : Int := here - p.roundLength
  let after : Int := here + p.roundLength
  if here.natAbs ≤ before.natAbs ∧ here.natAbs ≤ after.natAbs then here
  else if before.natAbs ≤ after.natAbs then before
  else after

/-- The OPEN is on time: the distance is at most the open grace (R66). -/
def Profile.onTime (p : Profile) (k instant : Nat) : Bool := (p.openOffset k instant).natAbs ≤ p.grace

end Sys2Proof.Machine
end

