-- ==== Sys2Proof/Machine/Roster.lean ====
section
/-! DEFINITION. Machine/Roster.lean: the Roster (section 4.5): what each judged OPEN does to a record, the two kinds of
departure handed on, and the commands ROSTER_SILENCE_CHECK and PEER_SILENT. -/

namespace Sys2Proof.Machine

/-- Change the record of a station. -/
def State.updateRoster (s : State) (station : StationNo) (f : RosterRecord → RosterRecord) : State :=
  { s with roster := s.roster.map fun r => if r.station = station then f r else r }

/-- The records a JOIN creates, or a return to LISTENING resets to: one per peer of the allotment (R71). -/
def Profile.freshRoster (p : Profile) : List RosterRecord := p.peers.map fun station => { station }

/-- The records as a return to LISTENING leaves them (R71). -/
def State.freshRoster (s : State) : List RosterRecord :=
  match s.profile with
  | none => []
  | some p => p.freshRoster

/-- An OPEN's current set with the windows unused at this station left out (R44). -/
def State.readCurrentSet (s : State) (current : WindowSet) : WindowSet :=
  WindowSet.ofTest fun w => WindowSet.has current w && !s.unused w

/-- A departure is handed on: to the Resync Unit for the donor (R138), to the Copy Server for the joiner (R155). -/
def State.handDeparture (s : State) (station : StationNo) : State := (s.donorDeparted station).joinerDeparted station

/-- A record leaves its state for ABSENT or FOREIGN; one that was PRESENT departs with an event (R74 to R78). -/
def State.depart (s : State) (station : StationNo) (next : RosterState) (cause : DepartCause) : State :=
  match s.rosterOf station with
  | none => s
  | some r =>
    let moved := s.updateRoster station fun r => { r with state := next }
    if r.state = .present then
      (moved.event (subjectOf station.toNat) (.peerDeparted cause r.lastHeard)).handDeparture station
    else moved

/-- An OPEN judged ON_TIME or MATCHING (R72): the record is heard and becomes PRESENT, with PEER_ARRIVED if it was not. -/
def State.rosterHeard (s : State) (h : Header) (cold leaving : Bool) (current : WindowSet) : State :=
  match s.rosterOf h.sender with
  | none => s
  | some r =>
    let heard := s.updateRoster h.sender fun r =>
      { r with state := .present, silent := 0, lastHeard := some h.round, current := s.readCurrentSet current,
               leaving := leaving }
    if r.state = .present then heard else heard.event (subjectOf h.sender.toNat) (.peerArrived h.slotIndex cold)

/-- An OPEN judged MISALIGNED or PASSED_OVER (R73): the set and the leaving flag are taken; FOREIGN becomes ABSENT. -/
def State.rosterSeen (s : State) (h : Header) (leaving : Bool) (current : WindowSet) : State :=
  s.updateRoster h.sender fun r =>
    { r with state := if r.state = .foreign then .absent else r.state,
             current := s.readCurrentSet current, leaving := leaving }

/-- An OPEN judged FOREIGN (R74). -/
def State.rosterForeign (s : State) (h : Header) : State := s.depart h.sender .foreign .foreign

/-- A PRESENT record not heard in the round that ended has its silent rounds raised (R75). -/
def RosterRecord.examine (r : RosterRecord) (ended : Half) (limit : Nat) : RosterRecord :=
  if r.state = .present ∧ r.lastHeard ≠ some ended ∧ r.silent < limit then { r with silent := r.silent + 1 } else r

/-- The Roster's examination at a round end, while ACTIVE or LEAVING (R75). -/
def State.examineRoster (s : State) : State :=
  if s.station.takesPart then
    { s with roster := s.roster.map fun r => r.examine s.clock.endedRound s.silenceLimit }
  else s

/-- A record whose silent rounds have reached the limit becomes ABSENT (R75). -/
def State.silentPeer (s : State) (station : StationNo) : State :=
  match s.rosterOf station with
  | none => s
  | some r =>
    if s.station.takesPart && r.isSilent s.silenceLimit then s.depart station .absent .silent else s

/-- ROSTER_SILENCE_CHECK (R75): the examination; the departures it leads to are PEER_SILENT. -/
def execRosterSilenceCheck (s : State) : Host.Outcome State Fault Refusal := .next s.examineRoster

/-- PEER_SILENT (R75): the record becomes ABSENT, the departure is handed on (R77), and an attempt may begin (R129).
DESIGN CHOICE: a row apart from the examination (log entry 8).  Where several peers fall silent at one round end the test is
made behind the last of them (`tryBegin`). -/
def execPeerSilent (station : StationNo) (s : State) : Host.Outcome State Fault Refusal :=
  .next (s.silentPeer station).tryBegin

end Sys2Proof.Machine
end

