-- ==== Sys2Proof/Machine/ApplyUnit.lean ====
section
/-! DEFINITION. Machine/ApplyUnit.lean: the slot accounts (chapter 7): opening, counting and ending an account, and what
a frame under an account does. -/

namespace Sys2Proof.Machine

/-- A count of an account rises and stops at 255 (R115). -/
def countUp (n : Nat) : Nat := if n < Config.accountCeiling then n + 1 else n

/-- The open account is the sender's. -/
def State.accountOf (s : State) (sender : StationNo) : Option Account :=
  match s.account with
  | none => none
  | some a => if a.sender = sender then some a else none

/-- A SLOT_LOSS event (R124). -/
def State.slotLossEvent (s : State) (sender : StationNo) (detail : EventDetail) : State :=
  s.event (subjectOf sender.toNat) detail

/-- What follows the losses and events of an ending: the held notices are delivered (R125), and an account that a
LEAVING OPEN opened is reported to the Roster (R76). -/
def State.finishAccount (s : State) (a : Account) : State :=
  let delivered := s.deliverAll a.held
  if a.leaving then delivered.depart a.sender .absent .orderly else delivered

/-- An account ends without a CLOSE: SLOT_LOSS NO_CLOSE, then a loss against every held window (R123). -/
def State.endUnclosed (s : State) (a : Account) (ending : AccountEnding) : State :=
  (((({ s with account := none } : State).slotLossEvent a.sender
      (.slotLoss .noClose a.slot (some ending) a.frames a.updates none a.corrupt)).losses
        fun w => (s.window w).isHeld)).finishAccount a

/-- The open account, if any, ends without a CLOSE (R120). -/
def State.endAccount (s : State) (ending : AccountEnding) : State :=
  match s.account with
  | none => s
  | some a => s.endUnclosed a ending

/-- Row 1 of R121: the account and the CLOSE contradict each other. -/
def Account.inconsistent (a : Account) (updates frames : Byte) (touched : WindowSet) : Bool :=
  updates.toNat < a.updates || frames.toNat < a.frames || (a.windows &&& ~~~touched) != 0

/-- The check of a CLOSE against the account it ends (R121). -/
def State.checkClose (s : State) (a : Account) (updates frames : Byte) (touched : WindowSet) : State :=
  if a.inconsistent updates frames touched then
    (s.slotLossEvent a.sender
      (.slotLoss .inconsistent a.slot none a.frames a.updates (some (frames, updates)) a.corrupt)).losses
        fun w => WindowSet.has touched w || WindowSet.has a.windows w
  else if a.updates < updates.toNat then s.losses (WindowSet.has touched)
  else if a.frames < frames.toNat then
    s.slotLossEvent a.sender
      (.slotLoss .framesShort a.slot none a.frames a.updates (some (frames, updates)) a.corrupt)
  else s

/-- A CLOSE for which no account is open (R122). -/
def State.checkUnopened (s : State) (h : Header) (updates frames : Byte) (touched : WindowSet) : State :=
  if 0 < updates.toNat then s.losses (WindowSet.has touched)
  else if 0 < frames.toNat then
    s.slotLossEvent h.sender (.slotLoss .unopened h.slotIndex none 0 0 (some (frames, updates)) 0)
  else s

/-- An intact CLOSE (R117, R121, R122). -/
def State.takeClose (s : State) (h : Header) (updates frames : Byte) (touched : WindowSet) : State :=
  if s.foreignSender h.sender then s
  else match s.accountOf h.sender with
    | none => s.checkUnopened h updates frames touched
    | some a => (({ s with account := none } : State).checkClose a updates frames touched).finishAccount a

/-- An OPEN that the Round Clock hands on, while ACTIVE or LEAVING (R116): an open account ends, and one that is not
foreign opens a new account. -/
def State.takeOpen (s : State) (h : Header) (leaving foreign : Bool) : State :=
  if s.station.takesPart then
    let ended := s.endAccount .nextOpen
    if foreign then ended
    else { ended with account := some { sender := h.sender, slot := h.slotIndex, leaving := leaving } }
  else s

/-- A frame of the account's sender is counted (R117). -/
def State.countFrame (s : State) : State :=
  { s with account := s.account.map fun a => { a with frames := countUp a.frames } }

/-- An UPD of the account's sender is counted among the updates, with its window (R117). -/
def State.countUpdate (s : State) (w : WindowNo) : State :=
  { s with account := s.account.map fun a => { a with updates := countUp a.updates, windows := WindowSet.add a.windows w } }

/-- A corrupt reception is counted in the open account (R117). -/
def State.countCorrupt (s : State) : State :=
  { s with account := s.account.map fun a => { a with corrupt := countUp a.corrupt } }

/-- An update frame becomes a frame claim if its window's currency admits it and its block is held (R118, R19, R22). -/
def State.admitUpdate (s : State) (peer : Option StationNo) (w : WindowNo) (first : BitVec 4) (block : BitVec 10)
    (words : List Word) : State :=
  if (s.window w).admits then
    match (s.window w).storeBlock block.toNat with
    | none => s
    | some b => { s with frameClaims := s.frameClaims ++ [.update peer w b first.toNat words] }
  else s

/-- An intact UPD (R117 to R119). -/
def State.takeUpd (s : State) (h : Header) (w : WindowNo) (first : BitVec 4) (block : BitVec 10) (words : List Word) :
    State :=
  if s.foreignSender h.sender then s
  else match s.accountOf h.sender with
    | none => s.loss w
    | some _ => ((s.countFrame).countUpdate w).admitUpdate (some h.sender) w first block words

/-- A frame of another kind than OPEN, CLOSE and UPD: counted and acted on under its sender's account, or dropped
(R117). -/
def State.underAccount (s : State) (h : Header) (act : State → State) : State :=
  if s.foreignSender h.sender then s
  else match s.accountOf h.sender with
    | none => s
    | some _ => act s.countFrame

/-- A notice for this station is delivered at once while the account's corrupt tally is 0, and held otherwise (R125); an
account holds at most 253 (R115).  DESIGN CHOICE: one more, which a slot has no room for, is dropped (log entry 27). -/
def State.takeNotice (s : State) (n : Notice) : State :=
  match s.account with
  | none => s
  | some a =>
    if a.corrupt = 0 then s.deliver n
    else if a.held.length < Config.heldCapacity then { s with account := some { a with held := a.held ++ [n] } }
    else s

/-- An intact NTC counted under its account (R125). -/
def State.takeNtc (s : State) (h : Header) (target : Byte) (level : BitVec 3) (tag : Half) : State :=
  if s.isSelf target || target = 255 then
    s.takeNotice { sender := h.sender, level := level, tag := tag, round := s.clock.round }
  else s

/-- A slot start arms the expiry of the open account (R120). -/
def State.armAccount (s : State) (k : Nat) : State :=
  { s with account := s.account.map fun a => { a with armed := addOnce k a.armed } }

/-- The open-grace expiry of a slot whose start was raised after the account opened ends it (R120). -/
def State.graceExpired (s : State) (k : Nat) : State :=
  match s.account with
  | none => s
  | some a => if k ∈ a.armed then s.endUnclosed a .expired else s

end Sys2Proof.Machine
end

