-- ==== Sys2Proof/Machine/LineInterface.lean ====
section
/-! DEFINITION. Machine/LineInterface.lean: the transmitter and the receiver (chapter 3): frame lengths, malformed
frames, what every reception report does, taking a frame for sending, the end of a frame, and the commands
CORRUPT_RECEPTION, LEAD_FOUND and DISCARD_RUN_START. -/

namespace Sys2Proof.Machine

/-- The body length of a frame by its kind; an UPD's by its words (R43). -/
def bodyLength : FrameBody → Nat
  | .opn _ _ _ _ => 8
  | .close _ _ _ => 8
  | .upd _ _ _ words => 4 + 4 * words.length
  | .ntc _ _ _ => 4
  | .creq _ _ _ _ => 8
  | .cbeg _ _ _ _ => 8
  | .cblk _ _ _ words => 4 + 4 * words.length
  | .cend _ _ _ => 4
  | .ccan _ _ => 4
  | .cabt _ _ => 4

/-- The frame length: lead 2, header 6, check 4 and the body (R42, R43). -/
def frameLength (b : FrameBody) : Nat := 12 + bodyLength b

/-- The global length of a window at this station (R1). -/
def State.globalLength (s : State) (w : WindowNo) : Nat := (s.window w).globalLength

/-- The touched set names a window whose G is 0 (R53). -/
def State.touchesUnused (s : State) (touched : WindowSet) : Bool :=
  allWindows.any fun w => WindowSet.has touched w && s.unused w

/-- The largest frame count of a CLOSE: (L - 40) / 16, the remainder dropped (R45, R53). -/
def Profile.frameCountBound (p : Profile) : Nat := (p.slotLength - 40) / 16

/-- The conditions of R53 on the body of a frame, by its kind, with the lengths of R43. -/
def State.malformedBody (s : State) (p : Profile) : FrameBody → Bool
  | .opn _ cold leaving _ => cold && leaving
  | .close updates frames touched =>
    frames.toNat < updates.toNat || p.frameCountBound < frames.toNat || (touched = 0 && 0 < updates.toNat) ||
      (touched != 0 && updates = 0) || s.touchesUnused touched
  | .upd w first block words =>
    words.length < 1 || 16 < words.length || s.unused w || s.globalLength w ≤ block.toNat ||
      16 < first.toNat + words.length
  | .ntc target level _ => (64 ≤ target.toNat && target.toNat ≤ 254) || level = 0
  | .creq w attempt first last =>
    s.unused w || last.toNat < first.toNat || s.globalLength w ≤ last.toNat || attempt = 0
  | .cbeg joiner w first last =>
    63 < joiner.toNat || s.unused w || last.toNat < first.toNat || s.globalLength w ≤ last.toNat
  | .cblk joiner w block words =>
    words.length != 16 || 63 < joiner.toNat || s.unused w || s.globalLength w ≤ block.toNat
  | .cend joiner w count =>
    63 < joiner.toNat || s.unused w || count = 0 || s.globalLength w < count.toNat
  | .ccan donor w => 63 < donor.toNat || s.unused w
  | .cabt joiner w => 63 < joiner.toNat || s.unused w

/-- The kind is OPEN. -/
def FrameBody.isOpen : FrameBody → Bool
  | .opn _ _ _ _ => true
  | .close _ _ _ | .upd _ _ _ _ | .ntc _ _ _ | .creq _ _ _ _ | .cbeg _ _ _ _ | .cblk _ _ _ _ | .cend _ _ _
  | .ccan _ _ | .cabt _ _ => false

/-- The conditions of R53 on the header of any frame, this station's own included: the sender is above 63, or the slot
index of a frame other than OPEN is S or more. -/
def Profile.malformedHeader (p : Profile) (h : Header) (isOpen : Bool) : Bool :=
  63 < h.sender.toNat || (!isOpen && p.slots ≤ h.slotIndex.toNat)

/-- The readback of an own frame is malformed by the profile in force: R53 but for the sender, which is this station while
the transmitter sends the frame (R53, R55). -/
def State.malformedOwn (s : State) (h : Header) (b : FrameBody) : Bool :=
  match s.profile with
  | none => true
  | some p => p.malformedHeader h (FrameBody.isOpen b) || s.malformedBody p b

/-- A frame that passes its check is malformed by the profile in force (R53): as for an own frame, or its sender bears this
station's number. -/
def State.malformed (s : State) (h : Header) (b : FrameBody) : Bool :=
  s.malformedOwn h b || (match s.profile with
    | none => true
    | some p => h.sender = p.station)

/-- Every reception report is line activity: a running quiet timer starts again at its full length (R54, R64). -/
def State.lineActivity (s : State) : State :=
  match s.profile with
  | none => s
  | some p => { s with clock := { s.clock with quiet := s.clock.quiet.map fun _ => p.quietLength } }

/-- A corrupt reception is reported: line activity, counted by an Apply Unit that takes part (R54, R117). -/
def State.corruptReport (s : State) : State :=
  if s.station.takesPart then s.lineActivity.countCorrupt else s.lineActivity

/-- A discard run that a lead ends is reported as one corrupt reception (R52). -/
def State.endDiscardRun (s : State) : State := if s.receiver = .discarding then s.corruptReport else s

/-- The receiver goes to a state. -/
def State.setReceiver (s : State) (r : Receiver) : State := { s with receiver := r }

/-- The receiver takes the line's bytes as receptions: the station is on the line and drives no frame (R52, R55). -/
def State.hears (s : State) : Bool := s.station.onLine && s.transmitter.isNone

/-- The COLD OPEN has just been taken and none of its byte times has passed: an OPEN's report that comes together with the
quiet timer's expiry, and is taken behind it, is still acted on (R64, R86; DEDUCED, log entry 28). -/
def State.coldInstant (s : State) : Bool :=
  s.station = .coldStart && (match s.transmitter, s.filler with
    | some t, some f => t.start = 0 && f.count = 0
    | _, _ => false)

/-- The reception of this frame is reported: the receiver hears it, or it is an OPEN at the instant of the cold start. -/
def State.hearsFrame (s : State) (b : FrameBody) : Bool := s.hears || (FrameBody.isOpen b && s.coldInstant)

/-- An intact frame's reception ends (R52 to R54): off the line nothing is taken; a discard run before its lead is
reported first (DESIGN CHOICE: the row takes the lead with it, log entry 7); a malformed frame is a corrupt reception; any
other is line activity and is acted on. -/
def State.receive (s : State) (h : Header) (b : FrameBody) (act : State → State) : State :=
  if s.hearsFrame b then
    let ready := s.endDiscardRun.setReceiver .hunting
    if s.malformed h b then ready.corruptReport else act ready.lineActivity
  else s

/-- The transmitter takes the frame that the Slot Filler offers, when IDLE; a reception in progress ends as one corrupt
reception (R41, R55).  The header's slot index and round are those recorded for the slot (R42). -/
def State.takeFrame (s : State) (p : Profile) (f : Filling) (b : FrameBody) : State :=
  let quiet := if s.receiver = .receiving ∨ s.receiver = .discarding then s.corruptReport.setReceiver .hunting else s
  let sending : Sending := { frame := ⟨⟨p.station, BitVec.ofNat 8 f.slot, f.round⟩, b⟩, start := f.count }
  { quiet with transmitter := some sending }

/-- Byte times pass: the position of a clock that runs and the count of the slot advance alike (R60, R104). -/
def State.elapse (s : State) (n : Nat) : State :=
  { s with
    clock := { s.clock with position := s.clock.position.map fun at' => at' + n }
    filler := s.filler.map fun f => { f with count := f.count + n } }

/-- The slot in progress, unless the station has left the line (R80). -/
def State.liveSlot (s : State) : Option Filling :=
  match s.filler with
  | none => none
  | some f => if f.step = .abandoned then none else some f

/-- The byte times from the slot's count to the end of the frame; none where the count already stands there (R41, R104). -/
def Filling.untilEnd (f : Filling) (t : Sending) : Nat := t.start + frameLength t.frame.body - f.count

/-- The frame is driven to its end: what is left of its byte times passes (log entry 4).  A Slot Filler whose station has
left the line is IDLE at this report (R103). -/
def State.driveOut (s : State) (t : Sending) : State :=
  match s.liveSlot with
  | none => { s with filler := none }
  | some f => s.elapse (f.untilEnd t)

/-- The transmitter returns to IDLE at the last byte and the receiver is in HUNTING (R41, R55). -/
def State.endFrame (s : State) (t : Sending) : State :=
  { s.driveOut t with transmitter := none, receiver := if s.station.onLine then .hunting else .off }

/-- CORRUPT_RECEPTION (R52, R54): a reception ends corrupt; the receiver hunts. -/
def execCorruptReception (s : State) : Host.Outcome State Fault Refusal :=
  .next (if s.hears then s.corruptReport.setReceiver .hunting else s)

/-- LEAD_FOUND (R52): a discard run is reported as one corrupt reception, and the receiver is RECEIVING. -/
def execLeadFound (s : State) : Host.Outcome State Fault Refusal :=
  .next (if s.hears then s.endDiscardRun.setReceiver .receiving else s)

/-- DISCARD_RUN_START (R52): a framing error, or a driven byte in HUNTING that is no lead, starts a discard run. -/
def execDiscardRunStart (s : State) : Host.Outcome State Fault Refusal :=
  .next (if s.hears then s.setReceiver .discarding else s)

end Sys2Proof.Machine
end

