-- ==== Sys2Proof/Machine/Operands.lean ====
section
/-! DEFINITION. Machine/Operands.lean: every operand form. The aperture address (R8), the byte lanes (R8, R164), the
command record (R165, R174), the staged profile with its checks (R3, R58, R59, R166, R173) and the digest (R57). -/

namespace Sys2Proof.Machine

/-! ## The aperture -/

/-- The window field of an access, 0 to 63: bits 21 to 16 of the byte offset (R8). -/
def HostAccess.windowField (a : HostAccess) : Nat := a.address.toNat / 2 ^ 14

/-- The byte offset within the window, a multiple of 4 (R8). -/
def HostAccess.offset (a : HostAccess) : Nat := a.address.toNat % 2 ^ 14 * 4

/-- The block addressed (R8). -/
def HostAccess.block (a : HostAccess) : Nat := a.offset / 64

/-- The word addressed within its block (R8). -/
def HostAccess.word (a : HostAccess) : Nat := a.offset % 64 / 4

/-- The window addressed; none for a field of 32 to 63, which names no window record (R8). -/
def HostAccess.window (a : HostAccess) : Option WindowNo :=
  if h : a.windowField < 32 then some ⟨a.windowField, h⟩ else none

/-- The access is a write. -/
def HostAccess.isWrite (a : HostAccess) : Bool :=
  match a.access with
  | .read => false
  | .write _ => true

/-- All four byte-lane enables are asserted (check 5 of R9). -/
def lanesAll (l : Lanes) : Bool := l.lane0 && l.lane1 && l.lane2 && l.lane3

/-- The enable of lane `i`. -/
def laneEnabled (l : Lanes) (i : Nat) : Bool :=
  match i with
  | 0 => l.lane0
  | 1 => l.lane1
  | 2 => l.lane2
  | 3 => l.lane3
  | _ => false

/-! ## The control region -/

/-- Byte offset of the command code word (R174). -/
def commandCodeAt : Nat := 0x200

/-- Byte offset of operand word 0 (R174). -/
def operandAt : Nat := 0x204

/-- Byte offset of the command tag (R174). -/
def commandTagAt : Nat := 0x21C

/-- Byte offset of the issue word (R174). -/
def issueAt : Nat := 0x220

/-- The command code as the command record holds it (R165). -/
def State.commandCode (s : State) : Word := s.region.readWord commandCodeAt

/-- Operand word `i` of the command record (R165). -/
def State.operand (s : State) (i : Nat) : Word := s.region.readWord (operandAt + 4 * i)

/-- The tag as the command record holds it (R165). -/
def State.commandTag (s : State) : Word := s.region.readWord commandTagAt

/-- Change the bytes of the enabled lanes of the word at a byte offset (R164). -/
def Memory.writeLanes (m : Memory) (a : Nat) (lanes : Lanes) (value : Word) : Memory :=
  [0, 1, 2, 3].foldl (fun m i => if laneEnabled lanes i then m.write (a + i) (wordByte value i) else m) m

/-- The host fills the command record with a code, operands and a tag (section 11.2); operand words that are not named
stay as they are. -/
def State.fillCommand (s : State) (code : Nat) (operands : List Word) (tag : Word) : State :=
  { s with region :=
      ((s.region.writeWord commandCodeAt (BitVec.ofNat 32 code)).writeWords operandAt operands).writeWord commandTagAt tag }

/-- An operand word that names a window 0 to 31; none for any larger value (section 11.3). -/
def windowOperand (w : Word) : Option WindowNo := if h : w.toNat < 32 then some ⟨w.toNat, h⟩ else none

/-! ## The staged profile -/

/-- One window entry as staged (R173). -/
structure RawWindow where
  globalLength : Nat
  accessCode : Nat
  directionCode : Nat
  count : Nat
  base : Nat
  deriving DecidableEq, Repr

/-- The profile as staged, before any check (R173). -/
structure RawProfile where
  station : Nat
  slots : Nat
  slotLength : Nat
  settle : Nat
  drain : Nat
  grace : Nat
  copyShare : Nat
  catchUpWait : Nat
  copyStall : Nat
  attemptLimit : Nat
  silenceLimit : Nat
  allotment : List StationNo
  windows : List RawWindow
  deriving DecidableEq, Repr

/-- The window entry at its place in the staging area: 8 bytes each from 030h (R173). -/
def readRawWindow (m : Memory) (w : Nat) : RawWindow where
  globalLength := (m.readHalf (0x30 + 8 * w)).toNat
  accessCode := (m.read (0x30 + 8 * w + 2)).toNat
  directionCode := (m.read (0x30 + 8 * w + 3)).toNat
  count := (m.readHalf (0x30 + 8 * w + 4)).toNat
  base := (m.readHalf (0x30 + 8 * w + 6)).toNat

/-- The profile of a staging area (R173): an allotment entry is the low 6 bits of its byte, and entries for slot
indices of S or more are not examined. -/
def readRawProfile (m : Memory) : RawProfile where
  station := (m.read 0x00).toNat
  slots := (m.read 0x01).toNat
  slotLength := (m.readHalf 0x02).toNat
  settle := (m.readHalf 0x04).toNat
  drain := (m.readHalf 0x06).toNat
  grace := (m.read 0x08).toNat
  copyShare := (m.read 0x09).toNat
  catchUpWait := (m.read 0x0A).toNat
  copyStall := (m.read 0x0B).toNat
  attemptLimit := (m.read 0x0C).toNat
  silenceLimit := (m.read 0x0D).toNat
  allotment := (List.range (min (m.read 0x01).toNat 32)).map fun k => m.read (0x10 + k) &&& 0x3F
  windows := (List.range 32).map (readRawWindow m)

/-- The number of the first geometry check that fails (R58). -/
def RawProfile.geometryFailure (p : RawProfile) : Option Nat :=
  if ¬ (2 ≤ p.slots ∧ p.slots ≤ 32) then some 1
  else if ¬ (256 ≤ p.slotLength ∧ p.slotLength ≤ 4096 ∧ p.slotLength % 16 = 0) then some 2
  else if ¬ (16 ≤ p.settle ∧ p.settle ≤ 1024) then some 3
  else if ¬ (16 ≤ p.drain ∧ p.drain ≤ 1024) then some 4
  else if ¬ (32 ≤ p.grace ∧ p.grace ≤ 255) then some 5
  else if ¬ (p.slots * p.slotLength ≤ 65536) then some 6
  else if ¬ (p.grace + 20 < p.slotLength) then some 7
  else none

/-- The entry holds its window: the access code is READ or WRITE (R3, R173). -/
def RawWindow.held (r : RawWindow) : Bool := r.accessCode = 1 || r.accessCode = 2

/-- The two spans share a store block (check 6 of R3). -/
def RawWindow.overlaps (r q : RawWindow) : Bool := r.base < q.base + q.count && q.base < r.base + r.count

/-- The first check of R3 that an entry fails, with the entries before it for check 6. -/
def RawWindow.failure (before : List RawWindow) (r : RawWindow) : Option ProfileErrorKind :=
  if ¬ r.globalLength ≤ 1024 then some .badWindow
  else if ¬ r.accessCode ≤ 2 then some .badWindow
  else if r.globalLength = 0 ∧ r.accessCode ≠ 0 then some .badWindow
  else if r.accessCode = 0 then none
  else if ¬ (1 ≤ r.count ∧ r.count ≤ r.globalLength ∧ r.directionCode ≤ 1) then some .badWindow
  else if ¬ (r.base ≤ 8191 ∧ r.base + r.count ≤ 8192) then some .spanBeyondStore
  else if before.any fun q => q.held && r.overlaps q then some .overlap
  else none

/-- The first entry that fails, in window-number order, with its kind (R3). -/
def windowsFailure : List RawWindow → Nat → List RawWindow → Option (ProfileErrorKind × Nat)
  | _, _, [] => none
  | before, w, r :: rest =>
    match r.failure before with
    | some kind => some (kind, w)
    | none => windowsFailure (before ++ [r]) (w + 1) rest

/-- The checks of CONFIGURE in their order, with the kind and the index of the first that fails (R166). -/
def RawProfile.failure (p : RawProfile) : Option (ProfileErrorKind × Nat) :=
  match p.geometryFailure with
  | some n => some (.badGeometry, n)
  | none =>
    if ¬ p.station ≤ 63 then some (.tooManyStations, p.station)
    else if ¬ p.allotment.contains (BitVec.ofNat 8 p.station) then some (.notAllotted, p.station)
    else if ¬ p.copyShare ≤ 16 then some (.badTimer, 1)
    else if ¬ (2 ≤ p.catchUpWait ∧ p.catchUpWait ≤ 16) then some (.badTimer, 2)
    else if ¬ (2 ≤ p.copyStall ∧ p.copyStall ≤ 16) then some (.badTimer, 3)
    else if ¬ (1 ≤ p.attemptLimit ∧ p.attemptLimit ≤ 7) then some (.badTimer, 4)
    else if ¬ (1 ≤ p.silenceLimit ∧ p.silenceLimit ≤ 8) then some (.badTimer, 5)
    else windowsFailure [] 0 p.windows

/-! ## The digest -/

/-- Shift one bit into a 16-bit cyclic remainder with polynomial x^16 + x^12 + x^5 + 1 (R57). -/
def crc16Bit (crc : Half) (bit : Bool) : Half :=
  if crc.msb ^^ bit then (crc <<< 1) ^^^ 0x1021 else crc <<< 1

/-- Take one byte into the remainder, most significant bit first (R57). -/
def crc16Byte (crc : Half) (b : Byte) : Half :=
  [7, 6, 5, 4, 3, 2, 1, 0].foldl (fun crc i => crc16Bit crc (b.getLsbD i)) crc

/-- The 16-bit cyclic check over bytes: all ones to begin with, the final remainder not inverted (R57). -/
def crc16 (bytes : List Byte) : Half := bytes.foldl crc16Byte 0xFFFF

/-- A two-byte value, high byte first (R172). -/
def halfBytes (n : Nat) : List Byte := [BitVec.ofNat 8 (n / 256), BitVec.ofNat 8 n]

/-- The bytes the digest covers, in their order (R57). -/
def RawProfile.digestInput (p : RawProfile) : List Byte :=
  [BitVec.ofNat 8 p.slots] ++ halfBytes p.slotLength ++ halfBytes p.settle ++ halfBytes p.drain ++ p.allotment ++
    (p.windows.map fun r => halfBytes r.globalLength).flatten

/-- The digest of a profile (R57). -/
def RawProfile.digest (p : RawProfile) : Half := crc16 p.digestInput

/-- The profile installed from a staged one that passed its checks (R83). -/
def RawProfile.install (p : RawProfile) : Profile where
  station := BitVec.ofNat 8 p.station
  slots := p.slots
  slotLength := p.slotLength
  settle := p.settle
  drain := p.drain
  grace := p.grace
  copyShare := p.copyShare
  catchUpWait := p.catchUpWait
  copyStall := p.copyStall
  attemptLimit := p.attemptLimit
  silenceLimit := p.silenceLimit
  allotment := p.allotment
  digest := p.digest

/-- The window record installed from a staged entry (R4). -/
def RawWindow.install (r : RawWindow) : WindowRecord where
  globalLength := r.globalLength
  holding :=
    if r.held then
      some { mode := if r.accessCode = 1 then .read else .write, count := r.count,
             direction := if r.directionCode = 0 then .up else .down, base := r.base }
    else none
  currency := if r.held then .stale else .unheld

end Sys2Proof.Machine
end

