-- ==== Sys2Proof/Machine/Formats.lean ====
section
/-! DEFINITION. Machine/Formats.lean: the codes and layouts of R172 to R174 as bytes: event records, notice results, the
results of the status commands, the completion record, the status words (R171) and a read of the control region (R164). -/

namespace Sys2Proof.Machine

/-! ## Codes, each list numbered from 0 in the order of its defining table (R174) -/

/-- Station states, the table of section 5.1 (R174). -/
def StationState.code : StationState → Nat
  | .initialising => 0 | .unconfigured => 1 | .configured => 2 | .listening => 3 | .coldStart => 4
  | .active => 5 | .leaving => 6 | .standoff => 7 | .muted => 8

/-- STATION_STATE causes, the table of R79 (R174). -/
def StationCause.code : StationCause → Nat
  | .initDone => 0 | .configure => 1 | .join => 2 | .matchingOpen => 3 | .quietExpired => 4 | .joinLimit => 5
  | .coldOpenIntact => 6 | .coldOpenLost => 7 | .openLost => 8 | .syncLoss => 9 | .standoffExpired => 10
  | .leave => 11 | .leaveDone => 12

/-- Currencies, the table of R2 (R174). -/
def Currency.code : Currency → Nat
  | .unheld => 0 | .stale => 1 | .catchingUp => 2 | .current => 3 | .stranded => 4

/-- WINDOW_STATE causes, the table of R24 (R174). -/
def WindowCause.code : WindowCause → Nat
  | .configure => 0 | .catchUpBegun => 1 | .attemptFailed => 2 | .catchUpDone => 3 | .loss => 4 | .coldStart => 5
  | .coldYield => 6 | .leave => 7 | .declare => 8 | .resync => 9

/-- Failure kinds, the table of R27 (R174). -/
def FailureKind.code : FailureKind → Nat
  | .waitExpired => 0 | .stallExpired => 1 | .donorAborted => 2 | .incomplete => 3 | .donorAbsent => 4 | .loss => 5

/-- Fault kinds of a data access, the table of R9 (R174). -/
def AccessFault.code : AccessFault → Nat
  | .notAvailable => 0 | .unheld => 1 | .beyondWindow => 2 | .outOfExtent => 3 | .partialWord => 4 | .notCurrent => 5
  | .readOnly => 6 | .queueFull => 7

/-- SLOT_LOSS causes (R174). -/
def SlotLossCause.code : SlotLossCause → Nat
  | .noClose => 0 | .framesShort => 1 | .inconsistent => 2 | .unopened => 3

/-- Endings of an account without a CLOSE (R174). -/
def AccountEnding.code : AccountEnding → Nat
  | .nextOpen => 0 | .expired => 1

/-- PEER_DEPARTED causes (R174). -/
def DepartCause.code : DepartCause → Nat
  | .silent => 0 | .orderly => 1 | .foreign => 2

/-- Completion statuses; `empty` is NONE (R174). -/
def CompletionStatus.code : CompletionStatus → Nat
  | .done => 0 | .busy => 1 | .badState => 2 | .badOperand => 3 | .queueFull => 4 | .empty => 5 | .profileError => 6

/-- Profile error kinds (R174). -/
def ProfileErrorKind.code : ProfileErrorKind → Nat
  | .badGeometry => 0 | .notAllotted => 1 | .tooManyStations => 2 | .badWindow => 3 | .overlap => 4
  | .spanBeyondStore => 5 | .badTimer => 6

/-- Roster states (R174). -/
def RosterState.code : RosterState → Nat
  | .unknown => 0 | .present => 1 | .absent => 2 | .foreign => 3

/-- Phases of the catch-up record (R174). -/
def CatchUpPhase.code : CatchUpPhase → Nat
  | .requested _ => 0
  | .copying _ _ _ => 1

/-- Phases of a serving record (R174). -/
def ServePhase.code : ServePhase → Nat
  | .offered => 0
  | .serving _ => 1

/-- Access code of a window record: NONE 0, READ 1, WRITE 2 (R173). -/
def WindowRecord.accessCode (r : WindowRecord) : Nat :=
  match r.holding with
  | none => 0
  | some { mode := .read, .. } => 1
  | some { mode := .write, .. } => 2

/-- Direction code: UP 0, DOWN 1 (R173). -/
def Direction.code : Direction → Nat
  | .up => 0 | .down => 1

/-- The kind byte of a frame's header (R172). -/
def FrameBody.kindCode : FrameBody → Byte
  | .opn _ _ _ _ => 0x01 | .close _ _ _ => 0x02 | .upd _ _ _ _ => 0x03 | .ntc _ _ _ => 0x04 | .creq _ _ _ _ => 0x05
  | .cbeg _ _ _ _ => 0x06 | .cblk _ _ _ _ => 0x07 | .cend _ _ _ => 0x08 | .ccan _ _ => 0x09 | .cabt _ _ => 0x0A

/-! ## Bytes -/

/-- A value of one byte. -/
def byteOf (n : Nat) : Byte := BitVec.ofNat 8 n

/-- A flag: 1 when set, 0 otherwise (R174). -/
def flagByte (b : Bool) : Byte := if b then 1 else 0

/-- The two bytes of a value, high byte first (R172). -/
def bytesOfHalf (h : Half) : List Byte := [(h >>> 8).setWidth 8, h.setWidth 8]

/-- The four bytes of a value, high byte first (R172). -/
def bytesOfWord (w : Word) : List Byte := [wordByte w 0, wordByte w 1, wordByte w 2, wordByte w 3]

/-- A two-byte number, high byte first (R172). -/
def halfOf (n : Nat) : List Byte := bytesOfHalf (BitVec.ofNat 16 n)

/-- A one-byte value that may be absent: absent reads FFh (R174). -/
def byteOrAbsent : Option Byte → Byte
  | none => 0xFF
  | some b => b

/-- A two-byte value that may be absent: absent reads FFFFh (R174). -/
def halfOrAbsent : Option Half → List Byte
  | none => [0xFF, 0xFF]
  | some h => bytesOfHalf h

/-- The 16 result words from a run of bytes, result word 0 holding bytes 0 to 3, high byte first; bytes not given read 0
(R174). -/
def resultWords (bytes : List Byte) : Vector Word 16 :=
  Vector.ofFn fun i : Fin 16 =>
    wordOf (bytes.getD (4 * i.val) 0) (bytes.getD (4 * i.val + 1) 0) (bytes.getD (4 * i.val + 2) 0)
      (bytes.getD (4 * i.val + 3) 0)

/-- The 16 result words from the words that the command fills; the rest read 0 (R165). -/
def resultOfWords (words : List Word) : Vector Word 16 := Vector.ofFn fun i : Fin 16 => words.getD i.val 0

/-! ## Events (R174) -/

/-- The kind code of an event. -/
def EventDetail.code : EventDetail → Nat
  | .stationState _ _ _ _ => 0 | .windowState _ _ _ _ _ => 1 | .windowChanged _ => 2 | .catchUpDone _ _ _ => 3
  | .catchUpFailed _ _ => 4 | .coldYield _ _ => 5 | .fenceDone _ => 6 | .outboundFlushed _ _ _ => 7
  | .ownFrameLost _ _ => 8 | .slotLoss _ _ _ _ _ _ _ => 9 | .peerArrived _ _ => 10 | .peerDeparted _ _ => 11
  | .hostFault _ _ _ => 12

/-- The frame an OWN_FRAME_LOST names: d0, and d2 on, with the slot index between them (R174). -/
def LostFrame.bytes (slot : Byte) : LostFrame → List Byte
  | .opn => [0x01, slot]
  | .upd w block first count => [0x03, slot, byteOf w.val] ++ halfOf block.toNat ++ [byteOf first.toNat, byteOf count]
  | .ntc target level tag => [0x04, slot, target, byteOf level.toNat] ++ bytesOfHalf tag

/-- The detail bytes d0 on of an event (R174). -/
def EventDetail.bytes : EventDetail → List Byte
  | .stationState previous next cause count => [byteOf previous.code, byteOf next.code, byteOf cause.code, byteOf count]
  | .windowState previous next cause attempts failure =>
    [byteOf previous.code, byteOf next.code, byteOf cause.code, byteOf attempts,
      byteOrAbsent (failure.map fun k => byteOf k.code)]
  | .windowChanged sender => [sender]
  | .catchUpDone donor blocks attempt => [donor] ++ halfOf blocks ++ [byteOf attempt]
  | .catchUpFailed attempts failure => [byteOf attempts, byteOf failure.code]
  | .coldYield misaligned changed => [flagByte misaligned, byteOf changed]
  | .fenceDone flushed => [flagByte flushed]
  | .outboundFlushed updates notices headInFlight => [byteOf updates, byteOf notices, flagByte headInFlight]
  | .ownFrameLost slot frame => frame.bytes slot
  | .slotLoss cause slot ending frames updates closeCounts corrupt =>
    [byteOf cause.code, slot, byteOrAbsent (ending.map fun e => byteOf e.code), byteOf frames, byteOf updates,
      byteOrAbsent (closeCounts.map Prod.fst), byteOrAbsent (closeCounts.map Prod.snd), byteOf corrupt]
  | .peerArrived slot cold => [slot, flagByte cold]
  | .peerDeparted cause lastHeard => [byteOf cause.code] ++ halfOrAbsent lastHeard
  | .hostFault kind offset write => [byteOf kind.code] ++ halfOf offset ++ [flagByte write]

/-- The 16 bytes of an event record: kind; overflow mark and subject-absent bit; subject; round; detail (R174). -/
def Event.bytes (e : Event) (overflow : Bool) : List Byte :=
  [byteOf e.detail.code, flagByte overflow ||| (flagByte e.subject.isNone <<< 1)] ++ halfOrAbsent e.subject ++
    bytesOfHalf e.round ++ e.detail.bytes

/-! ## Results of the commands (R174) -/

/-- A TAKE_NOTICE result: the record, the overrun mark and the records left (R163, R174). -/
def Notice.bytes (n : Notice) (overrun : Bool) (left : Nat) : List Byte :=
  [n.sender, byteOf n.level.toNat, flagByte overrun, byteOf left] ++ bytesOfHalf n.tag ++ bytesOfHalf n.round

/-- The donor of the catch-up record, absent in REQUESTED (R128). -/
def CatchUpPhase.donor : CatchUpPhase → Option StationNo
  | .requested _ => none
  | .copying donor _ _ => some donor

/-- The blocks of the received set, counted; the set is empty in REQUESTED (R128). -/
def CatchUpPhase.receivedCount : CatchUpPhase → Nat
  | .requested _ => 0
  | .copying _ _ received => received.length

/-- The four catch-up fields of a WINDOW_STATUS, absent unless the window is the catch-up record's (R167). -/
def State.catchUpBytes (s : State) (w : WindowNo) : List Byte :=
  match s.catchUp with
  | some c =>
    if c.window = w then
      [byteOf c.attempt, byteOf c.phase.code, byteOrAbsent c.phase.donor] ++ halfOf c.phase.receivedCount
    else [0xFF, 0xFF, 0xFF, 0xFF, 0xFF]
  | none => [0xFF, 0xFF, 0xFF, 0xFF, 0xFF]

/-- The place of a window in the resync list: 1 for the head, 0 when not listed (R167). -/
def State.resyncPlace (s : State) (w : WindowNo) : Nat :=
  match s.resync.findIdx? (· = w) with
  | none => 0
  | some i => i + 1

/-- H, direction and local base of a record, each 0 where absent (R167). -/
def WindowRecord.heldBytes (r : WindowRecord) : List Byte :=
  match r.holding with
  | none => [0, 0, 0, 0, 0]
  | some h => [byteOf h.direction.code] ++ halfOf h.count ++ halfOf h.base

/-- The value of a cold mark, 0 when absent (R167). -/
def WindowRecord.markValue (r : WindowRecord) : Nat :=
  match r.coldMark with
  | none => 0
  | some n => n

/-- The result bytes of a WINDOW_STATUS (R167, R174). -/
def State.windowStatusBytes (s : State) (w : WindowNo) : List Byte :=
  let r := s.window w
  halfOf r.globalLength ++ [byteOf r.accessCode] ++ r.heldBytes ++
    [byteOf r.currency.code, byteOf r.attempts, flagByte r.written, flagByte r.watch, byteOf r.markValue,
      byteOf (s.resyncPlace w)] ++ s.catchUpBytes w

/-- The result bytes of a ROSTER_STATUS that finds its record (R168, R174). -/
def RosterRecord.statusBytes (r : RosterRecord) (held : Nat) : List Byte :=
  [byteOf held, r.station, byteOf r.state.code, byteOf r.silent] ++ halfOrAbsent r.lastHeard ++
    [flagByte r.leaving, 0] ++ bytesOfWord r.current

/-- The next block of a phase, absent in OFFERED (R145). -/
def ServePhase.next : ServePhase → Option Half
  | .offered => none
  | .serving next => some (BitVec.ofNat 16 next)

/-- The 12 bytes of a serving record (R168, R174). -/
def ServingRecord.statusBytes (r : ServingRecord) : List Byte :=
  [r.joiner, byteOf r.window.val] ++ halfOf r.first ++ halfOf r.last ++ [byteOf r.phase.code, 0] ++
    halfOrAbsent r.phase.next ++ bytesOfHalf r.beginRound

/-- The result bytes of a STATION_STATUS (R168, R174). -/
def State.stationStatusBytes (s : State) : List Byte :=
  [byteOf s.station.code, byteOrAbsent (s.profile.map Profile.station)] ++ halfOrAbsent (s.profile.map Profile.digest) ++
    bytesOfHalf s.clock.round ++
    [byteOf s.resync.length, byteOrAbsent (s.catchUp.map fun c => byteOf c.window.val), byteOf s.control.length,
      byteOf s.outbound.length, byteOf s.serving.length, 0] ++
    (s.serving.map ServingRecord.statusBytes).flatten

/-! ## What the host reads in the control region (R164, R171, R174) -/

/-- The completion status word: status, command code, completion count (R174). -/
def Completion.statusWord (c : Completion) : Word := wordOf (byteOf c.status.code) c.code ((c.count >>> 8).setWidth 8) (c.count.setWidth 8)

/-- The word of a run of four bytes. -/
def wordOfBytes (l : List Byte) : Word := wordOf (l.getD 0 0) (l.getD 1 0) (l.getD 2 0) (l.getD 3 0)

/-- The station state word (R171, R174). -/
def State.stationWord (s : State) : Word :=
  wordOfBytes ([byteOf s.station.code, flagByte s.inFlight.isSome] ++
    halfOrAbsent (s.profile.map fun p => BitVec.setWidth 16 p.station))

/-- The round number word (R171, R174). -/
def State.roundWord (s : State) : Word := BitVec.setWidth 32 s.clock.round

/-- The free outbound entries word (R171, R97). -/
def State.freeWord (s : State) : Word := BitVec.ofNat 32 s.freeOutbound

/-- The event count word: byte 3 the count, byte 2 bit 0 the overflow flag (R171, R174). -/
def State.eventWord (s : State) : Word := wordOf 0 0 (flagByte s.eventOverflow) (byteOf s.events.length)

/-- The highest notice level word (R171, R161). -/
def State.noticeWord (s : State) : Word := BitVec.ofNat 32 s.notices.highestLevel

/-- The word of the control region at a byte offset, as a host read returns it (R164, R174): the staging area and the
command record as they stand, and offsets that hold nothing as 0.  DESIGN CHOICE: the issue word, of which the manual says
only what a write does, reads as 0 like those (log entry 26). -/
def State.controlRead (s : State) (offset : Nat) : Word :=
  if offset < issueAt then s.region.readWord offset
  else if offset = 0x240 then s.completion.statusWord
  else if offset = 0x244 then s.completion.tag
  else if 0x248 ≤ offset ∧ offset ≤ 0x284 then s.completion.result.toList.getD ((offset - 0x248) / 4) 0
  else if offset = 0x300 then s.stationWord
  else if offset = 0x304 then s.roundWord
  else if offset = 0x308 then s.freeWord
  else if offset = 0x30C then s.eventWord
  else if offset = 0x310 then s.noticeWord
  else 0

end Sys2Proof.Machine
end

