-- ==== Sys2Proof/Machine/SlotFiller.lean ====
section
/-! DEFINITION. Machine/SlotFiller.lean: opening, filling and closing an own slot (chapter 6), the copy read, and the
commands SLOT_START, SLOT_FRAME_OFFER, COPY_READ_GRANTED and SLOT_END. -/

namespace Sys2Proof.Machine

/-- The OPEN of a slot (R105): the COLD OPEN's current set holds every held window (R23). -/
def State.openBody (s : State) (p : Profile) (f : Filling) : FrameBody :=
  .opn p.digest (s.station = .coldStart) f.leaving (if s.station = .coldStart then s.heldSet else s.currentSet)

/-- The slot in progress is as given. -/
def State.setFilling (s : State) (f : Filling) : State := { s with filler := some f }

/-- The OPEN is offered; a transmitter that is SENDING does not take it, and it stays with the Slot Filler (R41). -/
def State.offerOpen (s : State) (p : Profile) (f : Filling) : State :=
  if s.transmitter.isSome then s.setFilling f
  else (s.takeFrame p f (s.openBody p f)).setFilling { f with step := .opened }

/-- An own slot is opened: its round and index are recorded and the OPEN is offered (R103, R105). A slot opened in
LEAVING is the LEAVING slot (R93, R103). `count` is the time since its slot start. -/
def State.openSlot (s : State) (p : Profile) (k : Nat) (round : Half) (count : Nat) : State :=
  let f : Filling := { slot := k, round := round, leaving := s.station = .leaving, count := count }
  ({ s with lastOpened := some (round, k) } : State).offerOpen p f

/-- An own slot start that finds the Slot Filler FILLING is kept for the CLOSE's readback (R103).  DESIGN CHOICE: one that
finds another kept takes its place, with its own count (log entry 24). -/
def Filling.deferSlot (f : Filling) (k : Nat) (round : Half) : Filling :=
  { f with deferred := some { slot := k, round := round, since := f.count } }

/-- The Slot Filler acts on the slot start of an own slot (R103). -/
def State.ownSlotStart (s : State) (p : Profile) (k : Nat) : State :=
  match s.station with
  | .coldStart | .active =>
    if s.lastOpened = some (s.clock.round, k) then s
    else match s.filler with
      | none => s.openSlot p k s.clock.round 0
      | some f => s.setFilling (f.deferSlot k s.clock.round)
  | .leaving =>
    if s.lastOpened = some (s.clock.round, k) then s
    else match s.filler with
      | none => s.openSlot p k s.clock.round 0
      | some f => if f.leaving then s else s.setFilling (f.deferSlot k s.clock.round)
  | .initialising | .unconfigured | .configured | .listening | .standoff | .muted => s

/-- The slot start of a slot is delivered: to the open account's expiry (R120), and of an own slot to the Slot Filler
(R62). -/
def State.slotStarted (s : State) (p : Profile) (k : Nat) : State :=
  if p.owns k then (s.armAccount k).ownSlotStart p k else s.armAccount k

/-- The room test of R104 for a frame of n bytes with a copy reserve of k. -/
def Profile.room (p : Profile) (f : Filling) (n k : Nat) : Bool := f.count + n + 22 + 90 * k ≤ p.slotLength

/-- The copy reserve: the lesser of the copy share and the CBLK frames the serving list could still send (R107). -/
def State.copyReserve (s : State) (p : Profile) : Nat := min p.copyShare s.blocksToSend

/-- The tally of the slot counts a frame when it is offered (R110). -/
def Filling.tally (f : Filling) (b : FrameBody) : Filling :=
  match b with
  | .upd w _ _ _ =>
    { f with frames := f.frames + 1, updates := f.updates + 1, touched := WindowSet.add f.touched w }
  | _ => { f with frames := f.frames + 1 }

/-- A frame other than OPEN and CLOSE is offered, taken and tallied (R110). -/
def State.sendFrame (s : State) (p : Profile) (f : Filling) (b : FrameBody) : State :=
  (s.takeFrame p f b).setFilling (f.tally b)

/-- The CLOSE with the three parts of the tally (R110). -/
def Filling.closeBody (f : Filling) : FrameBody :=
  .close (BitVec.ofNat 8 f.updates) (BitVec.ofNat 8 f.frames) f.touched

/-- The CLOSE is offered (R110). -/
def State.offerClose (s : State) (p : Profile) (f : Filling) : State :=
  (s.takeFrame p f f.closeBody).setFilling { f with step := .closing }

/-- The claim is for an update frame of this station's own. -/
def FrameClaim.isOwnUpdate : FrameClaim → Bool
  | .update none _ _ _ _ => true
  | .update (some _) _ _ _ _ => false
  | .copied _ _ _ => false

/-- An update frame of this station, admitted at its readback, waits to be applied (R21, R152). -/
def State.ownUpdateWaits (s : State) : Bool := s.frameClaims.any FrameClaim.isOwnUpdate

/-- The copy step asks the Copy Server for a record and claims its copy read, or the step stops (R109).  While an own
update frame waits to be applied the claim is not yet made, and the step asks again at the next offer (R21, R152). -/
def State.offerCopy (s : State) (p : Profile) (f : Filling) : State :=
  if f.copies < p.copyShare ∧ p.room f 80 0 then
    match s.chooseServing with
    | none => s.offerClose p f
    | some r =>
      let asked := s.setFilling { f with step := .copy }
      if s.ownUpdateWaits then asked else { asked with copyRead := some r.pair }
  else s.offerClose p f

/-- The outbound step takes the head of the Outbound Queue, sealing an UPDATE (R99, R107), or stops. -/
def State.offerOutbound (s : State) (p : Profile) (f : Filling) : State :=
  match s.outbound with
  | .update w block first words _ :: rest =>
    if p.room f (16 + 4 * words.length) (s.copyReserve p) then
      ({ s with outbound := .update w block first words true :: rest } : State).sendFrame p { f with step := .outbound }
        (.upd w first block words)
    else s.offerCopy p f
  | .notice target level tag :: _ =>
    if p.room f 16 (s.copyReserve p) then s.sendFrame p { f with step := .outbound } (.ntc target level tag)
    else s.offerCopy p f
  | .fence _ :: _ => s.offerCopy p f
  | [] => s.offerCopy p f

/-- The control step removes and offers the head of the Control Queue, or stops (R106). -/
def State.offerControl (s : State) (p : Profile) (f : Filling) : State :=
  match s.control with
  | b :: rest =>
    if p.room f (frameLength b) 0 then
      ({ s with control := rest } : State).sendFrame p { f with step := .control } b
    else s.offerOutbound p f
  | [] => s.offerOutbound p f

/-- The next frame of the slot is offered, each step where the one before it has stopped (R104 to R110). -/
def State.offerNext (s : State) (p : Profile) (f : Filling) : State :=
  match f.step with
  | .opening => s.offerOpen p f
  | .control => s.offerControl p f
  | .outbound => s.offerOutbound p f
  | .copy => s.offerCopy p f
  | .close => s.offerClose p f
  | .opened | .closing | .abandoned => s

/-- SLOT_FRAME_OFFER (R104): with no frame on the line and no copy read waiting, the next frame is offered. -/
def execSlotFrameOffer (s : State) : Host.Outcome State Fault Refusal :=
  match s.profile, s.filler with
  | some p, some f => if s.transmitter.isSome || s.copyRead.isSome then .next s else .next (s.offerNext p f)
  | _, _ => .next s

/-- The copy read is released without a frame, and the copy step stops (R109, R153). -/
def State.releaseCopyRead (s : State) : State :=
  { s with copyRead := none, filler := s.filler.map Filling.stopCopy }

/-- The Copy Server acts on a CBLK at its offer (R151, R152): the turn moves to the record, and the next block rises by
one, or at the last block a CEND is queued and the record is removed. -/
def State.advanceServing (s : State) (r : ServingRecord) (next : Nat) : State :=
  let turned : State := { s with turn := some r.pair }
  if next < r.last then
    { turned with serving := s.serving.map fun q => if q.pair = r.pair then { q with phase := .serving (next + 1) } else q }
  else
    (turned.queueControl (.cend r.joiner r.window (BitVec.ofNat 16 (r.last - r.first + 1)))).removeServing r.pair

/-- The words of the copy read are offered as a CBLK if it passes the room test (R104, R109, R152). -/
def State.offerBlock (s : State) (p : Profile) (f : Filling) (r : ServingRecord) (next : Nat) (words : List Word) : State :=
  if p.room f 80 0 ∧ s.transmitter = none then
    (({ s with copyRead := none } : State).sendFrame p { f with copies := f.copies + 1 }
      (.cblk r.joiner r.window (BitVec.ofNat 10 next) words)).advanceServing r next
  else s.releaseCopyRead

/-- The next block of a SERVING record (R145). -/
def ServingRecord.nextBlock (r : ServingRecord) : Option Nat :=
  match r.phase with
  | .offered => none
  | .serving next => some next

/-- The record of a pair with its next block and the store block that holds it (R152). -/
def State.copySource (s : State) (pair : StationNo × WindowNo) : Option (ServingRecord × Nat × Nat) :=
  match s.servingOf pair.1 pair.2 with
  | none => none
  | some r =>
    match r.nextBlock with
    | none => none
    | some next => ((s.window r.window).storeBlock next).map fun b => (r, next, b)

/-- COPY_READ_GRANTED (R152, R18, R21): behind any frame claim, the block is read and its CBLK offered.  A claim that
has been withdrawn is not granted, and nothing follows. -/
def execCopyReadGranted (s : State) : Host.Outcome State Fault Refusal :=
  match s.profile, s.filler, s.copyRead with
  | some p, some f, some pair =>
    if s.frameClaims.isEmpty then
      match s.copySource pair with
      | none => .next s.releaseCopyRead
      | some (r, next, b) =>
        if storeHas b then .next (s.offerBlock p f r next (s.storeBlockWords b)) else .fault .noSuchStoreBlock
    else .next s
  | _, _, _ => .next s

/-- Nothing but the CLOSE is left of the slot; a slot whose CLOSE is taken, or that was abandoned, stays as it is. -/
def Filling.restrict (f : Filling) : Filling :=
  match f.step with
  | .closing => f
  | .abandoned => f
  | _ => { f with step := .close }

/-- The slot end of an own slot that finds the Slot Filler FILLING (R104): the CLOSE alone is left, offered at once
if no frame is in progress.  DEDUCED: a copy read that waits is withdrawn (log entry 13). -/
def State.slotEnded (s : State) (p : Profile) (k : Nat) : State :=
  if p.owns k then
    match s.filler with
    | none => s
    | some f =>
      let g := f.restrict
      let held : State := { s.setFilling g with copyRead := none }
      if s.transmitter = none ∧ g.step = .close then held.offerClose p g else held
  else s

/-- The position is put at an instant of the round, as an alignment does: the slot's count stands (R67, R104). -/
def State.reach (s : State) (position : Nat) : State := { s with clock := { s.clock with position := some position } }

/-- Time passes up to an instant of the round, on the position and on the slot's count alike (R60, R62, R104; DESIGN CHOICE,
log entry 4). -/
def State.passTo (s : State) (position : Nat) : State :=
  match s.clock.position with
  | none => s.reach position
  | some at' => (s.elapse (position - at')).reach position

/-- The Round Clock runs (R61). -/
def State.running (s : State) : Bool := s.station.clockMode = .running

/-- SLOT_START (R62, R103): the position reaches the start of slot k. -/
def execSlotStart (k : Nat) (s : State) : Host.Outcome State Fault Refusal :=
  match s.profile with
  | none => .next s
  | some p => if s.running && k < p.slots then .next ((s.passTo (p.slotStart k)).slotStarted p k) else .next s

/-- SLOT_END (R62, R104): the position reaches the end of slot k. -/
def execSlotEnd (k : Nat) (s : State) : Host.Outcome State Fault Refusal :=
  match s.profile with
  | none => .next s
  | some p =>
    if s.running && k < p.slots then .next ((s.passTo (p.slotStart k + p.slotLength)).slotEnded p k) else .next s

end Sys2Proof.Machine
end

