-- ==== Sys2Proof/Machine/StationControl.lean ====
section
/-! DEFINITION. Machine/StationControl.lean: the transitions of the station state (chapter 5) but for those made by an
OPEN heard: coming off the line (R80), cold start (R86, R88), the timers' expiries, LEAVE, JOIN, the resets, and the
commands POWER_ON_RESET, SYNC_LOSS, QUIET_TIMER_EXPIRY, JOIN_TIMER_EXPIRY and STANDOFF_TIMER_EXPIRY. -/

namespace Sys2Proof.Machine

/-! ## Timers -/

/-- The quiet timer and the join timer are started with the foreign mark clear (R84, R91, R92). -/
def Clock.startListening (c : Clock) (p : Profile) : Clock :=
  { c with quiet := some p.quietLength, join := some p.joinLength, standoff := none, foreignMark := false }

/-- Every protocol timer is stopped (R64); the foreign mark stands until a rule clears it (DEDUCED, log entry 18). -/
def Clock.stopTimers (c : Clock) : Clock := { c with quiet := none, join := none, standoff := none }

/-- The clock leaves RUNNING: position, misaligned count and marks are discarded, the round number is kept (R61, R70). -/
def Clock.leaveRunning (c : Clock) : Clock :=
  { c with position := none, misalignedCount := 0, onTimeMark := false, misalignedMark := false, syncLoss := false }

/-- The timers as the state entered has them: LISTENING starts quiet and join, STANDOFF starts standoff, every other
state has none (R84, R91, R92, R95). -/
def Clock.timersFor (c : Clock) (p : Profile) : StationState → Clock
  | .listening => c.startListening p
  | .standoff => { c.stopTimers with standoff := some p.standoffLength }
  | .initialising | .unconfigured | .configured | .coldStart | .active | .leaving | .muted => c.stopTimers

/-! ## Coming off the line -/

/-- A held window is STALE with attempt count 0 and no cold mark; a window not held is unchanged (R36). -/
def WindowRecord.goStale (r : WindowRecord) : WindowRecord :=
  if r.isHeld then { r with currency := .stale, attempts := 0, coldMark := none } else r

/-- The UPDATE entries of a queue, counted (R113). -/
def updatesIn (l : List OutboundEntry) : Nat :=
  (l.filter fun e => match e with | .update _ _ _ _ _ => true | .notice _ _ _ => false | .fence _ => false).length

/-- The NOTICE entries of a queue, counted (R113). -/
def noticesIn (l : List OutboundEntry) : Nat :=
  (l.filter fun e => match e with | .update _ _ _ _ _ => false | .notice _ _ _ => true | .fence _ => false).length

/-- The tags of the FENCE entries of a queue, in order (R113). -/
def fencesIn (l : List OutboundEntry) : List Half :=
  l.filterMap fun e => match e with | .update _ _ _ _ _ => none | .notice _ _ _ => none | .fence tag => some tag

/-- The head entry is sealed, with its frame on the line (R113); only an UPDATE is ever sealed (R97, R99; DEDUCED, log
entry 12). -/
def State.headInFlight (s : State) : Bool :=
  s.liveSlot.isSome && (match s.outbound.head?, s.transmitter with
    | some (.update _ _ _ _ isSealed), some { frame := ⟨_, .upd _ _ _ _⟩, .. } => isSealed
    | _, _ => false)

/-- The Outbound Queue is flushed: FENCE_DONE (FLUSHED) in queue order, then OUTBOUND_FLUSHED (R113). -/
def State.flushOutbound (s : State) : State :=
  (({ s with outbound := [] } : State).fenceEvents true (fencesIn s.outbound)).event s.ownSubject
    (.outboundFlushed (updatesIn s.outbound) (noticesIn s.outbound) s.headInFlight)

/-- The Slot Filler offers no further frame: IDLE at once, or at the readback of the frame being driven (R80, R103). -/
def State.abandonSlot (s : State) : State :=
  { s with
    filler := if s.transmitter.isSome then s.filler.map fun f => { f with step := .abandoned } else none
    lastOpened := none }

/-- The Roster by the state entered: reset for LISTENING, kept for STANDOFF, removed for CONFIGURED (R71, R80). -/
def State.rosterFor (s : State) : StationState → List RosterRecord
  | .listening => s.freshRoster
  | .configured | .unconfigured | .initialising => []
  | .standoff | .coldStart | .active | .leaving | .muted => s.roster

/-- The held notices of the open account (R125). -/
def State.heldNotices (s : State) : List Notice :=
  match s.account with
  | none => []
  | some a => a.held

/-- Everything that R80 empties or discards besides the Outbound Queue.  DEDUCED: an account that a LEAVING OPEN opened is
discarded with no report to the Roster, whatever R76 says of every ending (log entry 22). -/
def State.clearLine (s : State) (p : Profile) (next : StationState) : State :=
  { s.abandonSlot with
    leavePending := false
    openFailures := 0
    copyRead := none
    receiver := if next.onLine then s.receiver else .off
    clock := (s.clock.leaveRunning).timersFor p next
    roster := s.rosterFor next
    control := []
    account := none
    resync := []
    catchUp := none
    serving := []
    turn := none }

/-- The station comes off the line: from ACTIVE or LEAVING to LISTENING, STANDOFF or CONFIGURED (R80, R36, R113, R125).
The events stand in R80's order: STATION_STATE, the FENCE_DONEs, OUTBOUND_FLUSHED. -/
def State.comeOff (s : State) (p : Profile) (next : StationState) (cause : StationCause) : State :=
  ((((s.enter next cause s.heldNotStale).flushOutbound).mapWindows WindowRecord.goStale).clearLine p next).deliverAll
    s.heldNotices

/-- SYNC_LOSS (R91): a sync loss that the Round Clock has reported takes the station to LISTENING.  DESIGN CHOICE: the report
stands in the clock until this row (log entry 8). -/
def State.takeSyncLoss (s : State) : State :=
  match s.profile with
  | none => s
  | some p => if s.clock.syncLoss && s.station.takesPart then s.comeOff p .listening .syncLoss else s

/-! ## Cold start -/

/-- A held window is CURRENT by cold start, with attempt count 0 and a cold mark of 4 (R32). -/
def WindowRecord.coldCurrent (r : WindowRecord) : WindowRecord :=
  if r.isHeld then { r with currency := .current, attempts := 0, coldMark := some 4 } else r

/-- One WINDOW_STATE event with cause COLD_START per held window, in window-number order (R32). -/
def State.coldEvents (s : State) : State :=
  s.heldWindows.foldl
    (fun t w => t.event (subjectOf w.val) (.windowState (s.window w).currency .current .coldStart 0 none)) s

/-- The COLD OPEN has read back intact: ACTIVE by cold start, and the slot goes on (R88, R32, R114). -/
def State.coldStartIntact (s : State) : State :=
  { (((s.enter .active .coldOpenIntact 0).coldEvents).mapWindows WindowRecord.coldCurrent) with openFailures := 0 }

/-- The COLD OPEN has read back corrupt: STANDOFF, no further frame, every window stays STALE (R88, R92). -/
def State.coldStartLost (s : State) (p : Profile) : State :=
  { (s.enter .standoff .coldOpenLost 0).abandonSlot with clock := (s.clock.leaveRunning).timersFor p .standoff }

/-- The quiet timer's expiry in LISTENING: COLD_START at the slot start of the lowest owned slot (R86, R63). -/
def State.enterColdStart (s : State) (p : Profile) : State :=
  let k := p.lowestOwned
  let entered : State :=
    { s.enter .coldStart .quietExpired 0 with
      leavePending := false
      openFailures := 0
      clock := { (s.clock.leaveRunning).stopTimers with position := some (p.slotStart k), foreignMark := false } }
  entered.slotStarted p k

/-- QUIET_TIMER_EXPIRY (R64, R86): in LISTENING, at remaining time 0.  A timer that a report has started again does not
expire. -/
def execQuietTimerExpiry (s : State) : Host.Outcome State Fault Refusal :=
  match s.profile with
  | none => .next s
  | some p =>
    if s.station = .listening ∧ s.clock.quiet = some 0 then .next (s.enterColdStart p) else .next s

/-- The join timer's expiry in LISTENING: MUTED with the foreign mark set, or else the timer starts again (R87). -/
def State.joinExpired (s : State) (p : Profile) : State :=
  if s.clock.foreignMark then
    { s.enter .muted .joinLimit 0 with clock := s.clock.stopTimers }
  else { s with clock := { s.clock with join := some p.joinLength, foreignMark := false } }

/-- JOIN_TIMER_EXPIRY (R64, R87): in LISTENING, at remaining time 0. -/
def execJoinTimerExpiry (s : State) : Host.Outcome State Fault Refusal :=
  match s.profile with
  | none => .next s
  | some p => if s.station = .listening ∧ s.clock.join = some 0 then .next (s.joinExpired p) else .next s

/-- The station enters LISTENING from STANDOFF (R92). -/
def State.standoffExpired (s : State) (p : Profile) : State :=
  { s.enter .listening .standoffExpired 0 with
    clock := s.clock.startListening p
    roster := s.freshRoster }

/-- STANDOFF_TIMER_EXPIRY (R64, R92): in STANDOFF, at remaining time 0. -/
def execStandoffTimerExpiry (s : State) : Host.Outcome State Fault Refusal :=
  match s.profile with
  | none => .next s
  | some p => if s.station = .standoff ∧ s.clock.standoff = some 0 then .next (s.standoffExpired p) else .next s

/-- SYNC_LOSS (R91). -/
def execSyncLoss (s : State) : Host.Outcome State Fault Refusal := .next s.takeSyncLoss

/-! ## Joining and leaving -/

/-- JOIN in CONFIGURED (R84). -/
def State.enterListening (s : State) (p : Profile) : State :=
  { s.enter .listening .join 0 with
    roster := p.freshRoster
    receiver := .hunting
    clock := s.clock.startListening p }

/-- LEAVE in LISTENING, STANDOFF or MUTED: CONFIGURED at once (R95). -/
def State.leaveAtOnce (s : State) : State :=
  { s.enter .configured .leave 0 with roster := [], receiver := .off, clock := s.clock.stopTimers }

/-- The catch-up record is dropped by a LEAVE in ACTIVE: a CCAN to the donor in COPYING, or the CREQ unqueued in
REQUESTED; the window goes STALE without spending an attempt (R93, R35). -/
def State.dropForLeave (s : State) : State :=
  match s.catchUp with
  | none => s
  | some c =>
    let dropped := match c.phase with
      | .requested _ => s.dropRequest c
      | .copying donor _ _ => ({ s with catchUp := none } : State).queueControl (.ccan donor c.window)
    dropped.changeCurrency c.window .stale (s.window c.window).attempts .leave none

/-- LEAVE in ACTIVE: LEAVING (R93, R35). -/
def State.enterLeaving (s : State) : State :=
  let dropped := (s.enter .leaving .leave 0).dropForLeave
  ({ dropped with resync := [] } : State).abortAllServing.mapWindows fun r => { r with coldMark := none }

/-- The CLOSE of a pending leave has been read back: CONFIGURED from COLD_START (R95). -/
def State.coldLeaveDone (s : State) : State :=
  { (s.enter .configured .leaveDone 0).abandonSlot with
    leavePending := false
    receiver := .off
    roster := []
    clock := (s.clock.leaveRunning).stopTimers }

/-! ## The resets -/

/-- What RESET_STATION leaves (R82): every block at its reset value in UNCONFIGURED; the replica store (R15), the
control region and the completion record (R164, R165) and the host's access in progress are kept. -/
def State.resetStation (s : State) : State :=
  { State.reset with
    station := .unconfigured
    initPass := none
    store := s.store
    region := s.region
    completion := s.completion
    hostClaim := s.hostClaim
    busResponse := s.busResponse
    pending := s.pending }

/-- POWER_ON_RESET (R81): every block at its power-on value, INITIALISING, the init pass at store block 0.  The store
keeps its bytes until the pass zeroes them (DESIGN CHOICE, log entry 2), and the queue of waiting commands is kept (log
entry 20). -/
def execPowerOnReset (s : State) : Host.Outcome State Fault Refusal :=
  .next { State.reset with store := s.store, pending := s.pending }

end Sys2Proof.Machine
end

