-- ==== Sys2Proof/Machine/RoundClock.lean ====
section
/-! DEFINITION. Machine/RoundClock.lean: the round end and its actions (R60, R62, R70), alignment (R67), the judgement of
an OPEN and everything an OPEN heard sets off (R65 to R69, R85, R89), the passing of a byte time, and the commands
ROUND_END, MISALIGNED_ROUND_TEST and OPEN_GRACE_EXPIRY. -/

namespace Sys2Proof.Machine

/-- The round ends: the number is raised, the position returns to 0, and the number of the round that ended is kept for
the blocks that act on it (R60, R75, R148). -/
def State.endRound (s : State) : State :=
  { s with clock := { s.clock with position := some 0, round := s.clock.round + 1, endedRound := s.clock.round } }

/-- The misaligned-round test of R70: two rounds in a row in which others are heard, none on time, report sync loss. -/
def Clock.testRound (c : Clock) : Clock :=
  let n := if c.misalignedMark && !c.onTimeMark then c.misalignedCount + 1 else 0
  { c with
    misalignedCount := if 2 ≤ n then 0 else n
    syncLoss := c.syncLoss || decide (2 ≤ n)
    onTimeMark := false
    misalignedMark := false }

/-- The misaligned-round test, while ACTIVE or LEAVING (R70). -/
def State.testRound (s : State) : State :=
  if s.station.takesPart then { s with clock := s.clock.testRound } else s

/-- The records whose silence has reached the limit depart, as the rows PEER_SILENT have it, with the test of R129 behind the
last of them, for which `tryBegin` waits (R75).  DESIGN CHOICE: in station-number order (log entry 23). -/
def State.departSilent (s : State) : State := s.roster.foldl (fun t r => (t.silentPeer r.station).tryBegin) s

/-- One block's action on a round end that an alignment passes over, whole: a happening of its own, so that an attempt may
begin behind what it fails or departs (R62, R67, R129; log entry 9). -/
def State.runTask (s : State) : RoundEndTask → State
  | .misalignedTest => s.testRound.takeSyncLoss
  | .silence => s.examineRoster.departSilent
  | .coldMarks => s.reduceColdMarks
  | .resyncTimers => s.reduceTimers.expireWait.tryBegin.expireStall.tryBegin
  | .offerLapse => s.lapseOffers

/-- Every action once: the order given, less repeats, and then any action it leaves out. -/
def wholeOrder (order : List RoundEndTask) : List RoundEndTask :=
  let given := order.foldl (fun l t => addOnce t l) []
  [.misalignedTest, .silence, .coldMarks, .resyncTimers, .offerLapse].foldl (fun l t => addOnce t l) given

/-- A round end that an alignment passes over, with the actions of the blocks in an order (R62, R67). -/
def State.passRoundEnd (s : State) (order : List RoundEndTask) : State :=
  (wholeOrder order).foldl State.runTask s.endRound

/-- A happening that an alignment passes over is raised (R67); an account's expiry may let an attempt begin (R129). -/
def State.raise (p : Profile) (order : List RoundEndTask) (s : State) : Happening → State
  | .slotEnd k => s.slotEnded p k
  | .slotStart k => s.slotStarted p k
  | .graceExpiry k => (s.graceExpired k).tryBegin
  | .roundEnd => s.passRoundEnd order

/-- The position moves forward, raising every happening passed over, in position order (R67). -/
def State.moveForward (p : Profile) (order : List RoundEndTask) : Nat → State → State
  | 0, s => s
  | n + 1, s =>
    match s.clock.position with
    | none => s
    | some at' =>
      State.moveForward p order n ((p.happenings (at' + 1)).foldl (State.raise p order) (s.reach (at' + 1)))

/-- The on-time mark is set (R70). -/
def State.markOnTime (s : State) : State := { s with clock := { s.clock with onTimeMark := true } }

/-- The misaligned mark is set (R70). -/
def State.markMisaligned (s : State) : State := { s with clock := { s.clock with misalignedMark := true } }

/-- Alignment to an on-time OPEN that ended at `instant` (R67): the position moves to the nearest expected end, forward
raising what it passes, backward raising nothing; the round number becomes the OPEN's; the on-time mark is set before
and after. -/
def State.align (s : State) (p : Profile) (k instant : Nat) (round : Half) (order : List RoundEndTask) : State :=
  let d := p.openOffset k instant
  let marked := (s.passTo instant).markOnTime
  let moved :=
    if 0 ≤ d then State.moveForward p order d.toNat marked
    else marked.reach ((((instant : Int) + p.roundLength + d) % p.roundLength).toNat)
  ({ moved with clock := { moved.clock with round := round } } : State).markOnTime

/-- The windows that are CURRENT, in window-number order. -/
def State.currentWindows (s : State) : List WindowNo :=
  allWindows.filter fun w => (s.window w).currency = .current

/-- One window of a yield: CURRENT to STALE at the tail of the resync list (R34). -/
def State.yieldWindow (s : State) (w : WindowNo) : State :=
  (s.changeCurrency w .stale (s.window w).attempts .coldYield none).joinResync w

/-- The station yields the cold contest to X: COLD_YIELD, then the windows (R89, R34). -/
def State.coldYield (s : State) (x : StationNo) (misaligned : Bool) : State :=
  let reported := s.event (subjectOf x.toNat) (.coldYield misaligned s.currentWindows.length)
  (s.currentWindows.foldl State.yieldWindow reported).mapWindows fun r => { r with coldMark := none }

/-- The cold contest: judged while ACTIVE with a young cold grant, on an OPEN with COLD of a lower station (R89). -/
def State.contest (s : State) (p : Profile) (x : StationNo) (cold misaligned : Bool) : State :=
  if s.station = .active ∧ s.youngColdGrant ∧ cold ∧ x.toNat < p.station.toNat then s.coldYield x misaligned else s

/-- A MATCHING OPEN takes the station to ACTIVE (R85, R63, R31). -/
def State.joinLine (s : State) (p : Profile) (h : Header) : State :=
  let clocked : State := { s with clock :=
    { (s.clock.leaveRunning).stopTimers with
      position := some (p.openEnd h.slotIndex.toNat), round := h.round, onTimeMark := true, foreignMark := false } }
  { clocked.enter .active .matchingOpen h.sender.toNat with resync := s.heldWindows, openFailures := 0 }

/-- An OPEN judged FOREIGN (R65, R74, R116): the join timer's foreign mark while it runs, the Roster, the account. -/
def State.openForeign (s : State) (h : Header) (leaving : Bool) : State :=
  let marked : State :=
    { s with clock := { s.clock with foreignMark := s.clock.foreignMark || s.clock.join.isSome } }
  (marked.rosterForeign h).takeOpen h leaving true

/-- An OPEN judged in LISTENING (R65, R68): FOREIGN, PASSED_OVER or MATCHING. -/
def State.openListening (s : State) (p : Profile) (h : Header) (digest : Half) (cold leaving : Bool)
    (current : WindowSet) : State :=
  if p.foreignOpen h digest then s.openForeign h leaving
  else if leaving then s.rosterSeen h leaving current
  else ((s.joinLine p h).rosterHeard h cold leaving current).takeOpen h leaving false

/-- An OPEN judged in RUNNING (R65 to R67, R69): FOREIGN, ON_TIME or MISALIGNED, handed to the Station Controller, the
Roster and the Apply Unit, in that order (DEDUCED, log entry 10). -/
def State.openRunning (s : State) (p : Profile) (h : Header) (digest : Half) (cold leaving : Bool)
    (current : WindowSet) (instant : Nat) (order : List RoundEndTask) : State :=
  if p.foreignOpen h digest then (s.passTo instant).openForeign h leaving
  else if p.onTime h.slotIndex.toNat instant then
    ((((s.align p h.slotIndex.toNat instant h.round order).contest p h.sender cold false).rosterHeard h cold leaving
      current).takeOpen h leaving false)
  else
    ((((s.passTo instant).markMisaligned.contest p h.sender cold true).rosterSeen h leaving current).takeOpen h leaving
      false)

/-- An intact OPEN is judged by the station state (R65, R68). -/
def State.openReported (s : State) (h : Header) (digest : Half) (cold leaving : Bool) (current : WindowSet)
    (instant : Nat) (order : List RoundEndTask) : State :=
  match s.profile with
  | none => s
  | some p =>
    match s.station with
    | .listening => s.openListening p h digest cold leaving current
    | .coldStart | .active | .leaving =>
      s.openRunning p h digest cold leaving current (instant % p.roundLength) order
    | .initialising | .unconfigured | .configured | .standoff | .muted => s

/-- ROUND_END (R60, R62, R132): the position reaches the round length; the catch-up record's running timer is reduced.
The other actions on the round end are commands of their own (log entry 8). -/
def execRoundEnd (s : State) : Host.Outcome State Fault Refusal :=
  match s.profile with
  | none => .next s
  | some p => .next (if s.running then (s.passTo p.roundLength).endRound.reduceTimers else s)

/-- MISALIGNED_ROUND_TEST (R70). -/
def execMisalignedRoundTest (s : State) : Host.Outcome State Fault Refusal := .next s.testRound

/-- OPEN_GRACE_EXPIRY (R62, R120): the position reaches the open-grace expiry of slot k. -/
def execOpenGraceExpiry (k : Nat) (s : State) : Host.Outcome State Fault Refusal :=
  match s.profile with
  | none => .next s
  | some p =>
    if s.running && k < p.slots then
      .next ((s.passTo (p.slotStart k + 20 + p.grace)).graceExpired k).tryBegin
    else .next s

/-! ## A byte time -/

/-- A running timer counts down one byte time (R64). -/
def countDown : Option Nat → Option Nat
  | none => none
  | some n => some (n - 1)

/-- The timers count down and the position advances, by the mode (R60, R61, R64). -/
def Clock.tick (c : Clock) (mode : ClockMode) : Clock :=
  match mode with
  | .stopped => c
  | .free => { c with quiet := countDown c.quiet, join := countDown c.join, standoff := countDown c.standoff }
  | .running =>
    { c with
      quiet := countDown c.quiet, join := countDown c.join, standoff := countDown c.standoff
      position := c.position.map (· + 1) }

/-- The commands of a happening of the round; those of a round end stand in the order of the table of R62, and the peers'
silences in station-number order (DESIGN CHOICE, log entries 3 and 23). -/
def State.commandsOf (s : State) : Happening → List Instr
  | .slotEnd k => [.slotEnd k]
  | .slotStart k => [.slotStart k]
  | .graceExpiry k => [.openGraceExpiry k]
  | .roundEnd =>
    [.roundEnd, .misalignedRoundTest, .syncLoss, .rosterSilenceCheck] ++
      (s.roster.map fun r => .peerSilent r.station) ++
      [.coldMarkReduction, .waitTimerExpiry, .stallTimerExpiry, .offerLapse]

/-- The happenings of the round whose instant the position has reached, while RUNNING (R62). -/
def State.roundCommands (s : State) : List Instr :=
  match s.profile, s.clock.position with
  | some p, some position =>
    if s.running then ((p.happenings position).map s.commandsOf).flatten else []
  | _, _ => []

/-- The expiries of the protocol timers that have reached 0 (R64).  DESIGN CHOICE: where the quiet and the join timer reach
0 together, the quiet expiry is taken first (R87 lets either be; log entry 3). -/
def State.timerCommands (s : State) : List Instr :=
  (if s.clock.quiet = some 0 then [.quietTimerExpiry] else []) ++
  (if s.clock.join = some 0 then [.joinTimerExpiry] else []) ++
  (if s.clock.standoff = some 0 then [.standoffTimerExpiry] else [])

/-- One byte time passes with no command waiting (R60, R62, R64, R104): the clock and the slot's count advance, and what
the clock raises waits as commands.  DESIGN CHOICE: this is what a step on an empty queue does (log entry 3). -/
def State.byteTime (s : State) : State :=
  let ticked : State :=
    { s with
      clock := s.clock.tick s.station.clockMode
      filler := s.filler.map fun f => { f with count := f.count + 1 } }
  if s.station.clockMode = .stopped then ticked
  else { ticked with pending := ticked.roundCommands ++ ticked.timerCommands }

end Sys2Proof.Machine
end

