-- ==== Sys2Proof/Machine/Receive.lean ====
section
/-! DEFINITION. Machine/Receive.lean: the commands by which an intact frame of another station is reported (R54, R69,
R117 to R126).  The test of R129 stands last in every one whose happening can make its conditions hold. -/

namespace Sys2Proof.Machine

/-- The Apply Unit takes frames while the station is ACTIVE or LEAVING (R117). -/
def State.applying (s : State) (act : State → State) : State := if s.station.takesPart then act s else s

/-- OPEN_RECEIVED (R69). -/
def execOpenReceived (h : Header) (digest : Half) (cold leaving : Bool) (current : WindowSet) (instant : Nat)
    (order : List RoundEndTask) (s : State) : Host.Outcome State Fault Refusal :=
  .next (s.receive h (.opn digest cold leaving current) fun s =>
    (s.openReported h digest cold leaving current instant order).tryBegin)

/-- CLOSE_RECEIVED (R117, R121, R122). -/
def execCloseReceived (h : Header) (updates frames : Byte) (touched : WindowSet) (s : State) :
    Host.Outcome State Fault Refusal :=
  .next (s.receive h (.close updates frames touched) fun s =>
    s.applying fun s => (s.takeClose h updates frames touched).tryBegin)

/-- UPD_RECEIVED (R117 to R119). -/
def execUpdReceived (h : Header) (w : WindowNo) (first : BitVec 4) (block : BitVec 10) (words : List Word) (s : State) :
    Host.Outcome State Fault Refusal :=
  .next (s.receive h (.upd w first block words) fun s =>
    s.applying fun s => (s.takeUpd h w first block words).tryBegin)

/-- NTC_RECEIVED (R117, R125). -/
def execNtcReceived (h : Header) (target : Byte) (level : BitVec 3) (tag : Half) (s : State) :
    Host.Outcome State Fault Refusal :=
  .next (s.receive h (.ntc target level tag) fun s =>
    s.applying fun s => s.underAccount h fun s => s.takeNtc h target level tag)

/-- CREQ_RECEIVED (R126, R146). -/
def execCreqReceived (h : Header) (w : WindowNo) (attempt : BitVec 3) (first last : BitVec 10) (s : State) :
    Host.Outcome State Fault Refusal :=
  .next (s.receive h (.creq w attempt first last) fun s =>
    s.applying fun s => s.underAccount h fun s => s.takeCreq h.sender w first last)

/-- CBEG_RECEIVED (R126, R133, R149). -/
def execCbegReceived (h : Header) (joiner : StationNo) (w : WindowNo) (first last : BitVec 10) (s : State) :
    Host.Outcome State Fault Refusal :=
  .next (s.receive h (.cbeg joiner w first last) fun s =>
    s.applying fun s => s.underAccount h fun s =>
      if s.isSelf joiner then s.joinerCbeg h.sender w else s.withdrawOffer joiner w)

/-- CBLK_RECEIVED (R126, R134). -/
def execCblkReceived (h : Header) (joiner : StationNo) (w : WindowNo) (block : BitVec 10) (words : List Word)
    (s : State) : Host.Outcome State Fault Refusal :=
  .next (s.receive h (.cblk joiner w block words) fun s =>
    s.applying fun s => s.underAccount h fun s =>
      if s.isSelf joiner then s.joinerCblk h.sender w block.toNat words else s)

/-- CEND_RECEIVED (R126, R136, R142). -/
def execCendReceived (h : Header) (joiner : StationNo) (w : WindowNo) (count : Half) (s : State) :
    Host.Outcome State Fault Refusal :=
  .next (s.receive h (.cend joiner w count) fun s =>
    s.applying fun s => s.underAccount h fun s =>
      if s.isSelf joiner then (s.joinerCend h.sender w).tryBegin else s)

/-- CCAN_RECEIVED (R126, R150). -/
def execCcanReceived (h : Header) (donor : StationNo) (w : WindowNo) (s : State) : Host.Outcome State Fault Refusal :=
  .next (s.receive h (.ccan donor w) fun s =>
    s.applying fun s => s.underAccount h fun s => if s.isSelf donor then s.takeCcan h.sender w else s)

/-- CABT_RECEIVED (R126, R137). -/
def execCabtReceived (h : Header) (joiner : StationNo) (w : WindowNo) (s : State) : Host.Outcome State Fault Refusal :=
  .next (s.receive h (.cabt joiner w) fun s =>
    s.applying fun s => s.underAccount h fun s =>
      if s.isSelf joiner then (s.joinerCabt h.sender w).tryBegin else s)

end Sys2Proof.Machine
end

