-- ==== Sys2Proof/Machine/Readback.lean ====
section
/-! DEFINITION. Machine/Readback.lean: the commands by which the readback of an own frame is reported (R55, R88, R90, R94,
R95, R106, R108, R111).  A report names the frame the transmitter was sending; one of another kind finds no such frame
and changes nothing. -/

namespace Sys2Proof.Machine

/-- The step after the OPEN's readback: the control step, unless nothing but the CLOSE is left (R105, R104). -/
def Filling.afterOpen (f : Filling) : Filling :=
  match f.step with
  | .opened => { f with step := .control }
  | _ => f

/-- The Slot Filler goes on after the OPEN's readback (R105). -/
def State.goOn (s : State) : State := { s with filler := s.filler.map Filling.afterOpen }

/-- The CLOSE of the slot in progress is offered at once (R114). -/
def State.closeNow (s : State) : State :=
  match s.profile, s.filler with
  | some p, some f => s.offerClose p f
  | _, _ => s

/-- An OWN_FRAME_LOST event: its round and slot index are those of the lost frame's header (R112). -/
def State.frameLost (s : State) (h : Header) (lost : LostFrame) : State :=
  s.appendEvent ⟨s.ownSubject, h.round, .ownFrameLost h.slotIndex lost⟩

/-- The COLD OPEN's readback (R88, R95, R114). -/
def State.coldOpenReported (s : State) (p : Profile) (intact : Bool) : State :=
  if s.leavePending then s.closeNow
  else if intact then s.coldStartIntact.goOn
  else s.coldStartLost p

/-- An OPEN's readback in ACTIVE or LEAVING (R90, R116). -/
def State.ownOpenReported (s : State) (p : Profile) (h : Header) (intact : Bool) : State :=
  if intact then (({ s with openFailures := 0 } : State).endAccount .nextOpen).goOn.tryBegin
  else if s.openFailures = 0 then (({ s with openFailures := 1 } : State).frameLost h .opn).goOn
  else s.comeOff p .standoff .openLost

/-- The Station Controller and the Apply Unit act on an OPEN's readback by the station state (R88, R90). -/
def State.openReadBack (s : State) (p : Profile) (h : Header) (intact : Bool) : State :=
  match s.station with
  | .coldStart => s.coldOpenReported p intact
  | .active | .leaving => s.ownOpenReported p h intact
  | .initialising | .unconfigured | .configured | .listening | .standoff | .muted => s

/-- OPEN_READBACK (R90). -/
def execOpenReadback (intact : Bool) (s : State) : Host.Outcome State Fault Refusal :=
  match s.transmitter, s.profile with
  | some ⟨⟨h, .opn digest cold leaving current⟩, start⟩, some p =>
    let ended := s.endFrame ⟨⟨h, .opn digest cold leaving current⟩, start⟩
    if s.liveSlot.isSome then .next (ended.openReadBack p h intact) else .next ended
  | _, _ => .next s

/-- The head of the Outbound Queue, whose frame has been read back, is removed (R108). -/
def State.popOutbound (s : State) : State := { s with outbound := s.outbound.tail }

/-- What follows the readback of an own UPD (R111): applied as the window's currency admits, or lost. -/
def State.ownUpdReported (s : State) (h : Header) (w : WindowNo) (first : BitVec 4) (block : BitVec 10)
    (words : List Word) (intact : Bool) : State :=
  if intact then s.admitUpdate none w first block words
  else (s.frameLost h (.upd w block first words.length)).loss w

/-- UPD_READBACK (R108, R111, R101): the entry is removed, the outcome acted on, a FENCE at the head completes, and an
attempt may begin: DEDUCED, the order of their events (log entry 11). -/
def execUpdReadback (intact : Bool) (s : State) : Host.Outcome State Fault Refusal :=
  match s.transmitter with
  | some ⟨⟨h, .upd w first block words⟩, start⟩ =>
    let ended := s.endFrame ⟨⟨h, .upd w first block words⟩, start⟩
    if s.liveSlot.isSome then
      .next ((ended.popOutbound.ownUpdReported h w first block words intact).completeFences).tryBegin
    else .next ended
  | _ => .next s

/-- NTC_READBACK (R108, R111, R101). -/
def execNtcReadback (intact : Bool) (s : State) : Host.Outcome State Fault Refusal :=
  match s.transmitter with
  | some ⟨⟨h, .ntc target level tag⟩, start⟩ =>
    let ended := s.endFrame ⟨⟨h, .ntc target level tag⟩, start⟩
    if s.liveSlot.isSome then
      .next (if intact then ended.popOutbound else ended.popOutbound.frameLost h (.ntc target level tag)).completeFences
    else .next ended
  | _ => .next s

/-- CREQ_READBACK (R131): intact or corrupt, the wait timer of its attempt starts again. -/
def execCreqReadback (_intact : Bool) (s : State) : Host.Outcome State Fault Refusal :=
  match s.transmitter with
  | some ⟨⟨h, .creq w attempt first last⟩, start⟩ =>
    .next ((s.endFrame ⟨⟨h, .creq w attempt first last⟩, start⟩).creqReported w attempt)
  | _ => .next s

/-- CBEG_READBACK (R147): intact or corrupt, its OFFERED record becomes SERVING. -/
def execCbegReadback (_intact : Bool) (s : State) : Host.Outcome State Fault Refusal :=
  match s.transmitter with
  | some ⟨⟨h, .cbeg joiner w first last⟩, start⟩ =>
    .next ((s.endFrame ⟨⟨h, .cbeg joiner w first last⟩, start⟩).cbegReported joiner w)
  | _ => .next s

/-- The own slot in progress ends; a slot start kept for this report opens its slot, its count running from that start
(R103, R104, R110). -/
def State.endSlot (s : State) : State :=
  match s.profile, s.filler with
  | some p, some f =>
    let idle : State := { s with filler := none }
    match f.deferred with
    | none => idle
    | some d => if s.station.takesPart then idle.openSlot p d.slot d.round (f.count - d.since) else idle
  | _, _ => s

/-- What the readback of a CLOSE ends (R94, R95, R110): the leave of a LEAVING slot, a pending leave in COLD_START, or
the own slot alone. -/
def State.closeReadBack (s : State) (p : Profile) : State :=
  match s.filler with
  | none => s
  | some f =>
    if s.station = .leaving ∧ f.leaving then ({ s with filler := none } : State).comeOff p .configured .leaveDone
    else if s.station = .coldStart ∧ s.leavePending then ({ s with filler := none } : State).coldLeaveDone
    else s.endSlot

/-- CLOSE_READBACK (R110, R94): intact or corrupt alike. -/
def execCloseReadback (_intact : Bool) (s : State) : Host.Outcome State Fault Refusal :=
  match s.transmitter, s.profile with
  | some ⟨⟨h, .close updates frames touched⟩, start⟩, some p =>
    let ended := s.endFrame ⟨⟨h, .close updates frames touched⟩, start⟩
    if s.liveSlot.isSome then .next (ended.closeReadBack p) else .next ended
  | _, _ => .next s

/-- The frames whose readback acts on nothing: CBLK, CEND, CABT and CCAN (R106, R152). -/
def actsOnNothing : FrameBody → Bool
  | .cblk _ _ _ _ | .cend _ _ _ | .cabt _ _ | .ccan _ _ => true
  | .opn _ _ _ _ | .close _ _ _ | .upd _ _ _ _ | .ntc _ _ _ | .creq _ _ _ _ | .cbeg _ _ _ _ => false

/-- OTHER_FRAME_READBACK (R152): the transmitter is IDLE again and nothing else follows. -/
def execOtherFrameReadback (_intact : Bool) (s : State) : Host.Outcome State Fault Refusal :=
  match s.transmitter with
  | none => .next s
  | some t => if actsOnNothing t.frame.body then .next (s.endFrame t) else .next s

end Sys2Proof.Machine
end

