-- ==== Sys2Proof/Machine/Store.lean ====
section
/-! DEFINITION. Machine/Store.lean: the store claims and the host's data accesses (sections 1.3 and 1.4), and the commands
INIT_PASS_STEP, HOST_DATA_ACCESS, HOST_STORE_CLAIM_GRANTED, UPDATE_APPLIED and COPIED_BLOCK_WRITTEN. -/

namespace Sys2Proof.Machine

/-! ## The init pass -/

/-- The init pass has zeroed its last block: UNCONFIGURED (R16, R81). -/
def State.initDone (s : State) : State := { s with initPass := none }.enter .unconfigured .initDone 0

/-- INIT_PASS_STEP (R16): one store block is zeroed and the pass moves on; outside the pass no step is made. -/
def execInitPassStep (s : State) : Host.Outcome State Fault Refusal :=
  match s.initPass with
  | none => .next s
  | some b =>
    if storeHas b then
      let zeroed := s.writeStore b 0 (List.replicate 16 0)
      if b + 1 < Config.storeBlocks then .next { zeroed with initPass := some (b + 1) } else .next zeroed.initDone
    else .fault .noSuchStoreBlock

/-! ## The checks of a data access -/

/-- The record a data access addresses; a field of 32 to 63 is treated as a window whose access code is NONE (R8). -/
def State.addressed (s : State) (a : HostAccess) : WindowRecord :=
  match a.window with
  | none => {}
  | some w => s.window w

/-- The window held READ (check 7a of R9). -/
def WindowRecord.readOnly (r : WindowRecord) : Bool :=
  match r.holding with
  | none => true
  | some h => h.mode = .read

/-- A write merges into the tail entry (R98): an unsealed UPDATE for the same window and block, whose words reach up to
the word written or hold it. -/
def OutboundEntry.merges (e : OutboundEntry) (w : WindowNo) (block word : Nat) : Bool :=
  match e with
  | .update ew eblock first words isSealed =>
    !isSealed && ew = w && eblock.toNat = block && first.toNat ≤ word && word ≤ first.toNat + words.length
  | .notice _ _ _ => false
  | .fence _ => false

/-- The word of a merging write is overwritten, or appended as the new last word (R98). -/
def OutboundEntry.merge (e : OutboundEntry) (word : Nat) (v : Word) : OutboundEntry :=
  match e with
  | .update w block first words isSealed =>
    if word < first.toNat + words.length then .update w block first (words.set (word - first.toNat) v) isSealed
    else .update w block first (words ++ [v]) isSealed
  | e => e

/-- The tail entry takes the write. -/
def State.tailMerges (s : State) (w : WindowNo) (block word : Nat) : Bool :=
  match s.outbound.getLast? with
  | none => false
  | some e => e.merges w block word

/-- The Outbound Queue can take the write, by merging or into a free entry (check 7c of R9, R98). -/
def State.canTakeWrite (s : State) (w : WindowNo) (block word : Nat) : Bool :=
  s.tailMerges w block word || s.outbound.length < Config.outboundCapacity

/-- Check 7c for the window an access names. -/
def State.queueTakes (s : State) (a : HostAccess) : Bool :=
  match a.window with
  | none => false
  | some w => s.canTakeWrite w a.block a.word

/-- The first check of R9 that a data access fails, in the order of its table. -/
def State.accessFault (s : State) (a : HostAccess) : Option AccessFault :=
  let r := s.addressed a
  if !s.hostAccessAllowed then some .notAvailable
  else if !r.isHeld then some .unheld
  else if r.globalLength ≤ a.block then some .beyondWindow
  else if !r.inExtent a.block then some .outOfExtent
  else if !lanesAll a.lanes then some .partialWord
  else if s.station.takesPart && r.currency != .current then some .notCurrent
  else if s.station.takesPart && a.isWrite && r.readOnly then some .readOnly
  else if s.station.takesPart && a.isWrite && s.station != .active then some .notAvailable
  else if s.station.takesPart && a.isWrite && !s.queueTakes a then some .queueFull
  else none

/-! ## Outcomes of a data access -/

/-- The access is answered on the local bus. -/
def State.respond (s : State) (r : BusResponse) : State := { s with busResponse := some r }

/-- A faulted access: an error response and one HOST_FAULT event (R11). -/
def State.hostFault (s : State) (a : HostAccess) (kind : AccessFault) : State :=
  (s.respond (if a.isWrite then .writeError else .readError)).event (subjectOf a.windowField)
    (.hostFault kind a.offset a.isWrite)

/-- An on-line write is taken into the Outbound Queue: merged into the tail, or as a new entry (R14, R98). -/
def State.takeWrite (s : State) (w : WindowNo) (block word : Nat) (v : Word) : State :=
  if s.tailMerges w block word then
    { s with outbound := s.outbound.dropLast ++ (s.outbound.getLast?.map fun e => e.merge word v).toList }
  else s.appendOutbound (.update w (BitVec.ofNat 10 block) (BitVec.ofNat 4 word) [v] false)

/-- The store block of the addressed window and block; a block outside the extent has none. -/
def State.accessBlock (s : State) (a : HostAccess) : Option Nat := (s.addressed a).storeBlock a.block

/-- An access that passed its checks goes to the store: the word is read, or off-line written (R12, R13). -/
def State.accessStore (s : State) (a : HostAccess) : Host.Outcome State Fault Refusal :=
  match s.accessBlock a with
  | none => .fault .noSuchStoreBlock
  | some b =>
    if storeHas b then
      match a.access with
      | .read => .next (s.respond (.readDone (s.store.readWord (storeAddress b a.word))))
      | .write v => .next ((s.writeStore b a.word [v]).respond .writeDone)
    else .fault .noSuchStoreBlock

/-- An on-line write that passed its checks (R14). -/
def State.accessQueue (s : State) (a : HostAccess) (v : Word) : State :=
  match a.window with
  | none => s
  | some w => (s.takeWrite w a.block a.word v).respond .writeDone

/-- A data access is decided: it faults, goes into the Outbound Queue, or goes to the store (R9, R11 to R14). -/
def State.decideAccess (s : State) (a : HostAccess) : Host.Outcome State Fault Refusal :=
  match s.accessFault a with
  | some kind => .next (s.hostFault a kind)
  | none =>
    match a.access with
    | .read => s.accessStore a
    | .write v => if s.station.takesPart then .next (s.accessQueue a v) else s.accessStore a

/-- A read, or an access off-line, waits for the arbiter (R12, R13); an on-line write and an access in a state that
allows none are decided when they are taken (R10, R14, R16; DEDUCED, log entry 15). -/
def State.needsClaim (s : State) (a : HostAccess) : Bool :=
  s.hostAccessAllowed && !(s.station.takesPart && a.isWrite)

/-- HOST_DATA_ACCESS (R8): with an access in progress the bus issues no other, and nothing is taken. -/
def execHostDataAccess (address : BitVec 20) (lanes : Lanes) (access : BusAccess) (s : State) :
    Host.Outcome State Fault Refusal :=
  let a : HostAccess := ⟨address, lanes, access⟩
  if s.hostClaim.isSome then .next s
  else if s.needsClaim a then .next { s with hostClaim := some ⟨a, s.station.takesPart⟩, busResponse := none }
  else s.decideAccess a

/-- The claim has been overtaken by a change of station state out of ACTIVE or LEAVING (R13).  A station that is back in one
of them is judged by the checks alone (DEDUCED, log entry 15). -/
def HostClaim.overtaken (c : HostClaim) (s : State) : Bool := c.onLine && !s.station.takesPart

/-- A granted claim is decided: NOT_AVAILABLE where a change of station state has overtaken it, else by the checks (R12, R13). -/
def State.decideClaim (s : State) (c : HostClaim) : Host.Outcome State Fault Refusal :=
  if c.overtaken s then .next (s.hostFault c.access .notAvailable) else s.decideAccess c.access

/-- HOST_STORE_CLAIM_GRANTED (R13, R12, R18): behind every frame claim and copy read, the waiting access is decided by
the checks in force at the grant. -/
def execHostStoreClaimGranted (s : State) : Host.Outcome State Fault Refusal :=
  match s.hostClaim with
  | none => .next s
  | some c =>
    if s.frameClaims.isEmpty && s.copyRead.isNone then ({ s with hostClaim := none } : State).decideClaim c
    else .next s

/-! ## Frame claims -/

/-- WINDOW_CHANGED is due: a peer's update, the watch flag on, the written flag clear (R39). -/
def State.changeDue (s : State) (peer : Option StationNo) (w : WindowNo) : Option StationNo :=
  if (s.window w).watch && !(s.window w).written then peer else none

/-- An update frame is applied: its words, the written flag, and WINDOW_CHANGED where due (R19, R6, R39). -/
def State.applyUpdate (s : State) (peer : Option StationNo) (w : WindowNo) (b first : Nat) (words : List Word) : State :=
  let applied := (s.writeStore b first words).setWritten w
  match s.changeDue peer w with
  | none => applied
  | some sender => applied.event (subjectOf w.val) (.windowChanged sender)

/-- UPDATE_APPLIED (R19, R17, R18): the frame claim at the head is an update frame's. -/
def execUpdateApplied (s : State) : Host.Outcome State Fault Refusal :=
  match s.frameClaims with
  | .update peer w b first words :: rest =>
    if storeHas b then .next (({ s with frameClaims := rest } : State).applyUpdate peer w b first words)
    else .fault .noSuchStoreBlock
  | _ => .next s

/-- COPIED_BLOCK_WRITTEN (R20, R17, R18): the frame claim at the head is a copied block's. -/
def execCopiedBlockWritten (s : State) : Host.Outcome State Fault Refusal :=
  match s.frameClaims with
  | .copied w b words :: rest =>
    if storeHas b then .next ((({ s with frameClaims := rest } : State).writeStore b 0 words).setWritten w)
    else .fault .noSuchStoreBlock
  | _ => .next s

end Sys2Proof.Machine
end

