-- ==== Sys2Proof/Machine/HostPort.lean ====
section
/-! DEFINITION. Machine/HostPort.lean: the control region's writes, the issue of a command with its gate and its
completion (R164, R165), the sixteen commands of section 11.3, and the command rows that issue them. -/

namespace Sys2Proof.Machine

/-! ## Completion -/

/-- The command code as the completion record holds it, in one byte (R174).  A code above 255 has a free value. -/
def completionCode (code : Word) : Byte := if code.toNat < 256 then code.setWidth 8 else Config.wideCodeByte code

/-- The whole completion record is written: status, code, tag, the count raised by one, and the result words (R165). -/
def State.completeAs (s : State) (code tag : Word) (status : CompletionStatus) (result : Vector Word 16) : State :=
  { s with completion :=
      { status := status, code := completionCode code, tag := tag, count := s.completion.count + 1, result := result } }

/-- A command of the command record completes with its own code and tag; neither issue nor completion changes the
command record (R165). -/
def State.complete (s : State) (status : CompletionStatus) : State :=
  s.completeAs s.commandCode s.commandTag status (resultWords [])

/-- As `complete`, with result bytes (R174). -/
def State.completeBytes (s : State) (status : CompletionStatus) (bytes : List Byte) : State :=
  s.completeAs s.commandCode s.commandTag status (resultWords bytes)

/-! ## CONFIGURE (R83, R166) -/

/-- The profile staging area: the bytes of the region below 200h (R174). -/
def stagingArea (region : Memory) : Memory := region.filter fun cell => cell.1 < commandCodeAt

/-- CONFIGURE copies the staging area and is in flight, in UNCONFIGURED and CONFIGURED (R83, R166). -/
def State.takeConfigure (s : State) : State :=
  match s.station with
  | .unconfigured | .configured => { s with inFlight := some { tag := s.commandTag, staged := stagingArea s.region } }
  | .initialising | .listening | .coldStart | .active | .leaving | .standoff | .muted => s.complete .badState

/-- The window records a checked profile installs (R4). -/
def RawProfile.records (p : RawProfile) : Vector WindowRecord 32 :=
  Vector.ofFn fun i : Fin 32 =>
    match p.windows[i.val]? with
    | none => {}
    | some r => r.install

/-- The installation itself: the profile and the records as a whole, with nothing of an older profile left (R4, R25,
R83, R128, R145). -/
def State.installProfile (s : State) (p : RawProfile) : State :=
  { s with
    profile := some p.install
    windows := p.records
    inFlight := none
    resync := []
    catchUp := none
    serving := []
    turn := none }

/-- From UNCONFIGURED the station is CONFIGURED with a STATION_STATE event; from CONFIGURED it stays so with none
(R83). -/
def State.nowConfigured (s : State) : State :=
  if s.station = .unconfigured then s.enter .configured .configure 0 else s

/-- One WINDOW_STATE event with cause CONFIGURE per window whose currency the installation changed, in window-number
order (R24, R83). -/
def State.configureEvents (s before : State) : State :=
  allWindows.foldl
    (fun t w =>
      if (before.window w).currency = (s.window w).currency then t
      else t.event (subjectOf w.val)
        (.windowState (before.window w).currency (s.window w).currency .configure (s.window w).attempts none)) s

/-- The CONFIGURE in flight completes (R166): PROFILE_ERROR with kind and index, or the profile is installed and it
completes DONE with the digest. -/
def State.configureDone (s : State) (c : ConfigureInFlight) : State :=
  let p := readRawProfile c.staged
  match p.failure with
  | some (kind, index) =>
    ({ s with inFlight := none } : State).completeAs 1 c.tag .profileError
      (resultOfWords [BitVec.ofNat 32 kind.code, BitVec.ofNat 32 index])
  | none =>
    ((s.installProfile p).nowConfigured.configureEvents s).completeAs 1 c.tag .done
      (resultOfWords [BitVec.setWidth 32 p.digest])

/-- CONFIGURE_COMPLETE (R166): with no CONFIGURE in flight there is nothing to complete. -/
def execConfigureComplete (s : State) : Host.Outcome State Fault Refusal :=
  match s.inFlight with
  | none => .next s
  | some c => .next (s.configureDone c)

/-! ## Joining, leaving, the reset -/

/-- JOIN by the station state (R84). -/
def State.takeJoin (s : State) : State :=
  match s.station with
  | .configured =>
    match s.profile with
    | none => s.complete .badState
    | some p => (s.enterListening p).complete .done
  | .listening | .coldStart | .active | .standoff => s.complete .done
  | .initialising | .unconfigured | .leaving | .muted => s.complete .badState

/-- LEAVE by the station state (R93, R95). -/
def State.takeLeave (s : State) : State :=
  match s.station with
  | .active => s.enterLeaving.complete .done
  | .listening | .standoff | .muted => s.leaveAtOnce.complete .done
  | .coldStart => ({ s with leavePending := true } : State).complete .done
  | .leaving => s.complete .done
  | .initialising | .unconfigured | .configured => s.complete .badState

/-- RESET_STATION (R82). -/
def State.takeReset (s : State) : State := s.resetStation.complete .done

/-! ## Commands on a window -/

/-- The catch-up record of a window that is declared is dropped: a CCAN to a named donor, or the CREQ unqueued (R37). -/
def State.dropForDeclare (s : State) (w : WindowNo) : State :=
  match s.catchUp with
  | none => s
  | some c =>
    if c.window = w then
      match c.phase with
      | .requested _ => s.dropRequest c
      | .copying donor _ _ => ({ s with catchUp := none } : State).queueControl (.ccan donor w)
    else s

/-- A declared window goes CURRENT with attempt count 0 (R37). -/
def State.declareCurrent (s : State) (w : WindowNo) : State := s.changeCurrency w .current 0 .declare none

/-- DECLARE on a held window, by its currency (R37). -/
def State.declareWindow (s : State) (w : WindowNo) : State :=
  match (s.window w).currency with
  | .stale => ({ s with resync := s.resync.erase w } : State).declareCurrent w
  | .stranded => s.declareCurrent w
  | .catchingUp => (s.dropForDeclare w).declareCurrent w
  | .current | .unheld => s

/-- RESYNC on a held window, by its currency (R38). -/
def State.resyncWindow (s : State) (w : WindowNo) : State :=
  match (s.window w).currency with
  | .current | .stranded => (s.changeCurrency w .stale 0 .resync none).joinResync w
  | .stale | .catchingUp | .unheld => s

/-- A command that names a held window and is taken in ACTIVE alone: BAD_STATE, BAD_OPERAND, or its effect (R37, R38). -/
def State.onHeldWindow (s : State) (act : State → WindowNo → State) : State :=
  if s.station = .active then
    match windowOperand (s.operand 0) with
    | none => s.complete .badOperand
    | some w => if (s.window w).isHeld then (act s w).complete .done else s.complete .badOperand
  else s.complete .badState

/-- DECLARE (R37); an attempt may begin once the record is dropped (R129). -/
def State.takeDeclare (s : State) : State := s.onHeldWindow fun s w => (s.declareWindow w).tryBegin

/-- RESYNC (R38); an attempt on the window may begin (R129). -/
def State.takeResync (s : State) : State := s.onHeldWindow fun s w => (s.resyncWindow w).tryBegin

/-- WATCH (R7). -/
def State.takeWatch (s : State) : State :=
  if s.station = .unconfigured then s.complete .badState
  else match windowOperand (s.operand 0) with
    | none => s.complete .badOperand
    | some w =>
      if (s.window w).isHeld ∧ (s.operand 1).toNat ≤ 1 then
        (s.setWindow w { s.window w with watch := decide ((s.operand 1).toNat = 1) }).complete .done
      else s.complete .badOperand

/-- CLEAR_WRITTEN (R6). -/
def State.takeClearWritten (s : State) : State :=
  if s.station = .unconfigured then s.complete .badState
  else match windowOperand (s.operand 0) with
    | none => s.complete .badOperand
    | some w => (s.setWindow w { s.window w with written := false }).complete .done

/-! ## Notices, fences, events -/

/-- The operands of a SEND_NOTICE lie in their ranges (R100). -/
def noticeOperandsOk (target level tag : Word) : Bool :=
  (target.toNat ≤ 63 || target.toNat = 255) && 1 ≤ level.toNat && level.toNat ≤ 7 && tag.toNat ≤ 65535

/-- SEND_NOTICE (R100). -/
def State.takeSendNotice (s : State) : State :=
  if s.station = .active then
    if noticeOperandsOk (s.operand 0) (s.operand 1) (s.operand 2) then
      if s.outbound.length < Config.outboundCapacity then
        (s.appendOutbound
          (.notice ((s.operand 0).setWidth 8) ((s.operand 1).setWidth 3) ((s.operand 2).setWidth 16))).complete .done
      else s.complete .queueFull
    else s.complete .badOperand
  else s.complete .badState

/-- TAKE_NOTICE (R163). -/
def State.takeTakeNotice (s : State) : State :=
  match s.notices.highest with
  | none => s.complete .empty
  | some i =>
    match (s.notices.queue i).notices with
    | [] => s.complete .empty
    | n :: rest =>
      ({ s with notices := s.notices.setQueue i { notices := rest, overrun := false } } : State).completeBytes .done
        (n.bytes (s.notices.queue i).overrun rest.length)

/-- SET_THRESHOLD (R162). -/
def State.takeSetThreshold (s : State) : State :=
  if (s.operand 0).toNat ≤ 7 then
    ({ s with notices := { s.notices with threshold := (s.operand 0).toNat } } : State).complete .done
  else s.complete .badOperand

/-- FENCE (R101): an entry that finds the queue empty completes in the same happening. -/
def State.takeFence (s : State) : State :=
  if s.station.takesPart then
    if (s.operand 0).toNat ≤ 65535 then
      if s.outbound.length < Config.outboundCapacity then
        (s.appendOutbound (.fence ((s.operand 0).setWidth 16))).completeFences.complete .done
      else s.complete .queueFull
    else s.complete .badOperand
  else s.complete .badState

/-- TAKE_EVENT (R170). -/
def State.takeTakeEvent (s : State) : State :=
  match s.events with
  | [] => s.complete .empty
  | e :: rest =>
    ({ s with events := rest, eventOverflow := false } : State).completeBytes .done (e.bytes s.eventOverflow)

/-! ## Status commands -/

/-- WINDOW_STATUS (R167). -/
def State.takeWindowStatus (s : State) : State :=
  if s.station = .unconfigured then s.complete .badState
  else match windowOperand (s.operand 0) with
    | none => s.complete .badOperand
    | some w => s.completeBytes .done (s.windowStatusBytes w)

/-- ROSTER_STATUS (R168). -/
def State.takeRosterStatus (s : State) : State :=
  if (s.operand 0).toNat ≤ 30 then
    match s.roster[(s.operand 0).toNat]? with
    | none => s.completeBytes .empty [byteOf s.roster.length]
    | some r => s.completeBytes .done (r.statusBytes s.roster.length)
  else s.complete .badOperand

/-- STATION_STATUS (R168). -/
def State.takeStationStatus (s : State) : State := s.completeBytes .done s.stationStatusBytes

/-! ## Issue -/

/-- The third stage of R165: the command of a code, by the table of section 11.3; a code outside 1 to 16 is
BAD_OPERAND. -/
def State.runCommand (s : State) (code : Nat) : State :=
  match code with
  | 1 => s.takeConfigure
  | 2 => s.takeJoin
  | 3 => s.takeLeave
  | 4 => s.takeReset
  | 5 => s.takeDeclare
  | 6 => s.takeResync
  | 7 => s.takeWatch
  | 8 => s.takeClearWritten
  | 9 => s.takeSendNotice
  | 10 => s.takeTakeNotice
  | 11 => s.takeSetThreshold
  | 12 => s.takeFence
  | 13 => s.takeTakeEvent
  | 14 => s.takeWindowStatus
  | 15 => s.takeRosterStatus
  | 16 => s.takeStationStatus
  | _ => s.complete .badOperand

/-- The gate of R165 stops the command of a code: INITIALISING, or a CONFIGURE in flight for all but RESET_STATION. -/
def State.gated (s : State) (code : Nat) : Bool := s.station = .initialising || (s.inFlight.isSome && code != 4)

/-- A write to the issue word takes the command record as it stands (R165). -/
def State.issue (s : State) : State :=
  if s.gated s.commandCode.toNat then s.complete .busy else s.runCommand s.commandCode.toNat

/-- The host fills the command record and writes the issue word (section 11.2).  DESIGN CHOICE: a command row is both
(log entry 1). -/
def State.command (s : State) (code : Nat) (operands : List Word) (tag : Word) : State :=
  (s.fillCommand code operands tag).issue

/-! ## The command rows -/

/-- CONTROL_REGION_WRITE (R164): the staging area and the command record take the enabled lanes, the issue word starts a
command whatever value and lanes it carries, and a write elsewhere is ignored. -/
def execControlRegionWrite (word : BitVec 8) (lanes : Lanes) (value : Word) (s : State) :
    Host.Outcome State Fault Refusal :=
  let offset := 4 * word.toNat
  if offset < issueAt then .next { s with region := s.region.writeLanes offset lanes value }
  else if offset = issueAt then .next s.issue
  else .next s

/-- BAD_COMMAND_CODE (R165). -/
def execBadCommandCode (code tag : Word) (s : State) : Host.Outcome State Fault Refusal :=
  .next (s.command code.toNat [] tag)

/-- CONFIGURE (R83). -/
def execConfigure (tag : Word) (s : State) : Host.Outcome State Fault Refusal := .next (s.command 1 [] tag)

/-- JOIN (R84). -/
def execJoin (tag : Word) (s : State) : Host.Outcome State Fault Refusal := .next (s.command 2 [] tag)

/-- LEAVE (R93, R95). -/
def execLeave (tag : Word) (s : State) : Host.Outcome State Fault Refusal := .next (s.command 3 [] tag)

/-- RESET_STATION (R82). -/
def execResetStation (tag : Word) (s : State) : Host.Outcome State Fault Refusal := .next (s.command 4 [] tag)

/-- DECLARE (R37). -/
def execDeclare (window tag : Word) (s : State) : Host.Outcome State Fault Refusal := .next (s.command 5 [window] tag)

/-- RESYNC (R38). -/
def execResync (window tag : Word) (s : State) : Host.Outcome State Fault Refusal := .next (s.command 6 [window] tag)

/-- WATCH (R7). -/
def execWatch (window setting tag : Word) (s : State) : Host.Outcome State Fault Refusal :=
  .next (s.command 7 [window, setting] tag)

/-- CLEAR_WRITTEN (R6). -/
def execClearWritten (window tag : Word) (s : State) : Host.Outcome State Fault Refusal :=
  .next (s.command 8 [window] tag)

/-- SEND_NOTICE (R100). -/
def execSendNotice (target level noticeTag tag : Word) (s : State) : Host.Outcome State Fault Refusal :=
  .next (s.command 9 [target, level, noticeTag] tag)

/-- TAKE_NOTICE (R163). -/
def execTakeNotice (tag : Word) (s : State) : Host.Outcome State Fault Refusal := .next (s.command 10 [] tag)

/-- SET_THRESHOLD (R162). -/
def execSetThreshold (threshold tag : Word) (s : State) : Host.Outcome State Fault Refusal :=
  .next (s.command 11 [threshold] tag)

/-- FENCE (R101). -/
def execFence (fenceTag tag : Word) (s : State) : Host.Outcome State Fault Refusal := .next (s.command 12 [fenceTag] tag)

/-- TAKE_EVENT (R170). -/
def execTakeEvent (tag : Word) (s : State) : Host.Outcome State Fault Refusal := .next (s.command 13 [] tag)

/-- WINDOW_STATUS (R167). -/
def execWindowStatus (window tag : Word) (s : State) : Host.Outcome State Fault Refusal :=
  .next (s.command 14 [window] tag)

/-- ROSTER_STATUS (R168). -/
def execRosterStatus (index tag : Word) (s : State) : Host.Outcome State Fault Refusal :=
  .next (s.command 15 [index] tag)

/-- STATION_STATUS (R168). -/
def execStationStatus (tag : Word) (s : State) : Host.Outcome State Fault Refusal := .next (s.command 16 [] tag)

end Sys2Proof.Machine
end

