-- ==== Sys2Proof/WellFormed.lean ====
section
/-! DEFINITION. WellFormed.lean: the checks a command must pass to be one the part can meet, whatever its profile.
What depends on the profile (a block beyond G, a slot index beyond S) is judged by the part itself (R53).
exec is total and does not rest on these checks. -/

namespace Sys2Proof

/-- A station number on the line is 0 to 63 (R42). -/
def StationNo.legal (n : StationNo) : Bool := n.toNat ≤ 63

/-- The five actions on a round end, each once (R62). -/
def RoundEndTask.isOrder (order : List RoundEndTask) : Bool :=
  order.length = 5 && order.contains .misalignedTest && order.contains .silence && order.contains .coldMarks &&
    order.contains .resyncTimers && order.contains .offerLapse

/-- An UPD carries 1 to 16 words (R46). -/
def updWordsOk (words : List Word) : Bool := 1 ≤ words.length && words.length ≤ 16

/-- A CBLK carries the block's 16 words (R49). -/
def blockWordsOk (words : List Word) : Bool := words.length = 16

/-- A slot index named by a happening of the round is 0 to 31, for S is at most 32 (R58). -/
def slotOk (slot : Nat) : Bool := slot < 32

/-- A round position lies below the longest round, 67584 bt (R60). -/
def positionOk (position : Nat) : Bool := position < 67584

/-- A command is well formed when its operands lie in the ranges the manual gives them. -/
def Instr.wellFormed : Instr → Bool
  | .powerOnReset | .initPassStep | .hostDataAccess _ _ _ | .hostStoreClaimGranted => true
  | .controlRegionWrite _ _ _ => true
  | .badCommandCode code _ => code.toNat = 0 || 16 < code.toNat
  | .configure _ | .configureComplete | .join _ | .leave _ | .resetStation _ => true
  | .declare _ _ | .resync _ _ | .watch _ _ _ | .clearWritten _ _ | .sendNotice _ _ _ _ => true
  | .takeNotice _ | .setThreshold _ _ | .fence _ _ | .takeEvent _ => true
  | .windowStatus _ _ | .rosterStatus _ _ | .stationStatus _ => true
  | .openReceived h _ _ _ _ position order => h.sender.legal && positionOk position && RoundEndTask.isOrder order
  | .closeReceived h _ _ _ => h.sender.legal
  | .updReceived h _ _ _ words => h.sender.legal && updWordsOk words
  | .updateApplied => true
  | .ntcReceived h _ _ _ => h.sender.legal
  | .creqReceived h _ _ _ _ => h.sender.legal
  | .cbegReceived h _ _ _ _ => h.sender.legal
  | .cblkReceived h _ _ _ words => h.sender.legal && blockWordsOk words
  | .copiedBlockWritten => true
  | .cendReceived h _ _ _ => h.sender.legal
  | .ccanReceived h _ _ => h.sender.legal
  | .cabtReceived h _ _ => h.sender.legal
  | .corruptReception => true
  | .openReadback _ | .updReadback _ | .ntcReadback _ | .creqReadback _ | .cbegReadback _ => true
  | .closeReadback _ | .otherFrameReadback _ => true
  | .slotStart slot | .openGraceExpiry slot | .slotEnd slot => slotOk slot
  | .slotFrameOffer | .copyReadGranted => true
  | .roundEnd | .misalignedRoundTest | .syncLoss | .rosterSilenceCheck => true
  | .peerSilent station => station.legal
  | .coldMarkReduction | .waitTimerExpiry | .stallTimerExpiry | .offerLapse => true
  | .quietTimerExpiry | .joinTimerExpiry | .standoffTimerExpiry | .leadFound | .discardRunStart => true

end Sys2Proof
end

