-- ==== Sys2Proof/Machine/Wire.lean ====
section
/-! DEFINITION. Machine/Wire.lean: frames as bytes on the span line (R42, R51, R172) and the receiver byte by byte (R52).
The reception rows of the table carry whole frames: this file says which line bytes make which row. -/

namespace Sys2Proof.Machine

/-! ## The frame check (R51) -/

/-- Shift one bit into the 32-bit remainder; 04C11DB7h is the polynomial of R51 without its x^32 term. -/
def crc32Bit (crc : Word) (bit : Bool) : Word := if crc.msb ^^ bit then (crc <<< 1) ^^^ 0x04C11DB7 else crc <<< 1

/-- Take one byte, most significant bit first (R51). -/
def crc32Byte (crc : Word) (b : Byte) : Word :=
  [7, 6, 5, 4, 3, 2, 1, 0].foldl (fun crc i => crc32Bit crc (b.getLsbD i)) crc

/-- The frame check over header and body: all ones to begin with, the remainder inverted (R51). -/
def frameCheck (bytes : List Byte) : Word := ~~~ (bytes.foldl crc32Byte 0xFFFFFFFF)

/-! ## Sending (R42, R172) -/

/-- The lead (R172). -/
def lead : List Byte := [0x5C, 0xE3]

/-- The flags byte of an OPEN (R172). -/
def openFlags (cold leaving : Bool) : Byte := flagByte cold ||| (flagByte leaving <<< 1)

/-- A block or other 10-bit field in its two bytes (R172). -/
def blockBytes (b : BitVec 10) : List Byte := bytesOfHalf (b.setWidth 16)

/-- A window in its byte (R172). -/
def windowByte (w : WindowNo) : Byte := BitVec.ofNat 8 w.val

/-- The words of a body, first word first (R172). -/
def wordsBytes (words : List Word) : List Byte := (words.map bytesOfWord).flatten

/-- The body bytes of a frame; bytes not named are 0 (R172). -/
def FrameBody.bytes : FrameBody → List Byte
  | .opn digest cold leaving current => bytesOfHalf digest ++ [openFlags cold leaving, 0] ++ bytesOfWord current
  | .close updates frames touched => [updates, frames, 0, 0] ++ bytesOfWord touched
  | .upd w first block words => [windowByte w, first.setWidth 8] ++ blockBytes block ++ wordsBytes words
  | .ntc target level tag => [target, level.setWidth 8] ++ bytesOfHalf tag
  | .creq w attempt first last =>
    [windowByte w, attempt.setWidth 8] ++ blockBytes first ++ blockBytes last ++ [0, 0]
  | .cbeg joiner w first last => [joiner, windowByte w] ++ blockBytes first ++ blockBytes last ++ [0, 0]
  | .cblk joiner w block words => [joiner, windowByte w] ++ blockBytes block ++ wordsBytes words
  | .cend joiner w count => [joiner, windowByte w] ++ bytesOfHalf count
  | .ccan donor w => [donor, windowByte w, 0, 0]
  | .cabt joiner w => [joiner, windowByte w, 0, 0]

/-- Header and body, the bytes the check covers (R42, R51, R172). -/
def Frame.covered (f : Frame) : List Byte :=
  [FrameBody.kindCode f.body, f.header.sender, f.header.slotIndex, byteOf (bodyLength f.body)] ++
    bytesOfHalf f.header.round ++ FrameBody.bytes f.body

/-- The bytes of a frame on the line: lead, header, body, check (R42, R51). -/
def Frame.lineBytes (f : Frame) : List Byte := lead ++ Frame.covered f ++ bytesOfWord (frameCheck (Frame.covered f))

/-! ## Reading (R43, R53, R172) -/

/-- A two-byte value (R172). -/
def halfIn (hi lo : Byte) : Half := hi ++ lo

/-- A block: the low 10 bits of its two bytes (R172). -/
def blockIn (hi lo : Byte) : BitVec 10 := (halfIn hi lo).setWidth 10

/-- A window: the low 5 bits of its byte (R172). -/
def windowIn (b : Byte) : WindowNo := ⟨b.toNat % 32, Nat.mod_lt _ (by decide)⟩

/-- The words of a run of bytes; none for a length that is no multiple of 4. -/
def wordsIn : List Byte → Option (List Word)
  | [] => some []
  | b0 :: b1 :: b2 :: b3 :: rest => (wordsIn rest).map fun ws => wordOf b0 b1 b2 b3 :: ws
  | _ => none

/-- An UPD's body, of 1 to 16 words (R43, R172). -/
def updIn : List Byte → Option FrameBody
  | w :: f :: b1 :: b0 :: rest =>
    match wordsIn rest with
    | none => none
    | some words =>
      if updWordsOk words then some (.upd (windowIn w) (f.setWidth 4) (blockIn b1 b0) words) else none
  | _ => none

/-- A CBLK's body, of 16 words (R43, R172). -/
def cblkIn : List Byte → Option FrameBody
  | j :: w :: b1 :: b0 :: rest =>
    match wordsIn rest with
    | none => none
    | some words => if blockWordsOk words then some (.cblk j (windowIn w) (blockIn b1 b0) words) else none
  | _ => none

/-- The body of a frame of a kind; none for another kind and for a length that does not match (R43, R53, R172).
Bits and bytes not named are ignored. -/
def bodyIn (kind : Byte) (bytes : List Byte) : Option FrameBody :=
  match kind.toNat, bytes with
  | 1, [d1, d0, flags, _, c3, c2, c1, c0] =>
    some (.opn (halfIn d1 d0) (flags.getLsbD 0) (flags.getLsbD 1) (wordOf c3 c2 c1 c0))
  | 2, [updates, frames, _, _, t3, t2, t1, t0] => some (.close updates frames (wordOf t3 t2 t1 t0))
  | 3, body => updIn body
  | 4, [target, level, t1, t0] => some (.ntc target (level.setWidth 3) (halfIn t1 t0))
  | 5, [w, attempt, f1, f0, l1, l0, _, _] =>
    some (.creq (windowIn w) (attempt.setWidth 3) (blockIn f1 f0) (blockIn l1 l0))
  | 6, [joiner, w, f1, f0, l1, l0, _, _] => some (.cbeg joiner (windowIn w) (blockIn f1 f0) (blockIn l1 l0))
  | 7, body => cblkIn body
  | 8, [joiner, w, c1, c0] => some (.cend joiner (windowIn w) (halfIn c1 c0))
  | 9, [donor, w, _, _] => some (.ccan donor (windowIn w))
  | 10, [joiner, w, _, _] => some (.cabt joiner (windowIn w))
  | _, _ => none

/-- The frame whose header and body are given (R42, R172); none where kind and length are not those of a frame. -/
def frameIn : List Byte → Option Frame
  | kind :: sender :: slot :: length :: r1 :: r0 :: body =>
    if length.toNat = body.length then
      (bodyIn kind body).map fun b => ⟨⟨sender, slot, halfIn r1 r0⟩, b⟩
    else none
  | _ => none

/-- A reception of header, body and check passes its check (R51). -/
def passesCheck (bytes : List Byte) : Bool :=
  bytesOfWord (frameCheck (bytes.take (bytes.length - 4))) = bytes.drop (bytes.length - 4)

/-- The command by which an intact reception is reported (R54); `instant` and `order` are those of an OPEN's row. -/
def receptionRow (f : Frame) (instant : Nat) (order : List RoundEndTask) : Instr :=
  match f.body with
  | .opn digest cold leaving current => .openReceived f.header digest cold leaving current instant order
  | .close updates frames touched => .closeReceived f.header updates frames touched
  | .upd w first block words => .updReceived f.header w first block words
  | .ntc target level tag => .ntcReceived f.header target level tag
  | .creq w attempt first last => .creqReceived f.header w attempt first last
  | .cbeg joiner w first last => .cbegReceived f.header joiner w first last
  | .cblk joiner w block words => .cblkReceived f.header joiner w block words
  | .cend joiner w count => .cendReceived f.header joiner w count
  | .ccan donor w => .ccanReceived f.header donor w
  | .cabt joiner w => .cabtReceived f.header joiner w

/-- A reception of header, body and check is judged: its frame's row, or a corrupt reception (R51, R53, R54).  What of
R53 rests on the profile is judged by the row itself. -/
def judged (bytes : List Byte) (instant : Nat) (order : List RoundEndTask) : Instr :=
  if passesCheck bytes then
    match frameIn (bytes.take (bytes.length - 4)) with
    | none => .corruptReception
    | some f => receptionRow f instant order
  else .corruptReception

/-! ## The readback of an own frame (R55, R56) -/

/-- The reception of header, body and check is a frame that is not malformed as one of this station's own (R53, R55). -/
def State.wellFormedOwn (s : State) (bytes : List Byte) : Bool :=
  match frameIn (bytes.take (bytes.length - 4)) with
  | none => false
  | some f => !s.malformedOwn f.header f.body

/-- The bytes that came back while a frame was sent are judged (R55): intact when they pass the check, are not malformed and
are the transmit copy byte by byte over lead, header, body and check.  Bytes that another station's frame has damaged
belong to neither frame and are corrupt (R40, R56). -/
def State.readbackIntact (s : State) (sent : Frame) (received : List Byte) : Bool :=
  passesCheck (received.drop 2) && s.wellFormedOwn (received.drop 2) && decide (received = Frame.lineBytes sent)

/-- The command by which the readback of a frame is reported: it names the frame handed over, by its kind, with the outcome
(R55). -/
def readbackRow (sent : Frame) (intact : Bool) : Instr :=
  match sent.body with
  | .opn _ _ _ _ => .openReadback intact
  | .close _ _ _ => .closeReadback intact
  | .upd _ _ _ _ => .updReadback intact
  | .ntc _ _ _ => .ntcReadback intact
  | .creq _ _ _ _ => .creqReadback intact
  | .cbeg _ _ _ _ => .cbegReadback intact
  | .cblk _ _ _ _ | .cend _ _ _ | .ccan _ _ | .cabt _ _ => .otherFrameReadback intact

/-- While the transmitter is SENDING, the receiver takes the byte on the line at the end of each byte time into the reception
of the frame being sent; at the frame's last byte the readback is judged and reported (R41, R55). -/
def State.hearOwnByte (s : State) (sent : Frame) (received : List Byte) (b : Byte) : List Byte × List Instr :=
  let taken := received ++ [b]
  if taken.length < frameLength sent.body then (taken, [])
  else ([], [readbackRow sent (s.readbackIntact sent taken)])

/-! ## The receiver, byte by byte (R52) -/

/-- What the receiver takes at the end of a byte time. -/
inductive LineSignal where
  | idle
  | driven (b : Byte)
  deriving DecidableEq, Repr

/-- Where the receiver stands between two bytes (R52).
In `hunting`, `fresh` says that the line was idle or a frame ended just before, and `half` that the lead's first byte
came just after that; in `discarding`, `half` says that the byte before is the lead's first byte; in `receiving`, the
bytes are those after the lead. -/
inductive Hearing where
  | hunting (fresh half : Bool)
  | receiving (bytes : List Byte)
  | discarding (half : Bool)
  deriving DecidableEq, Repr

/-- A byte after the lead: the frame goes on, ends and is judged, or has a framing error at its body length, found at the
sixth header byte, which may itself begin the next lead (R52). -/
def hearFrameByte (bytes : List Byte) (instant : Nat) (order : List RoundEndTask) : Hearing × List Instr :=
  let length := (bytes.getD 3 0).toNat
  if bytes.length < 6 then (.receiving bytes, [])
  else if length < 4 || 68 < length then (.discarding (bytes.getLast? = some 0x5C), [.discardRunStart])
  else if bytes.length < 6 + length + 4 then (.receiving bytes, [])
  else (.hunting true false, [judged bytes instant order])

/-- The receiver takes one signal and reports by commands, in line order (the table of R52). -/
def hear (h : Hearing) (signal : LineSignal) (instant : Nat) (order : List RoundEndTask) : Hearing × List Instr :=
  match h, signal with
  | .hunting _ half, .driven b =>
    if half && b = 0xE3 then (.receiving [], [.leadFound])
    else match h with
      | .hunting true false => if b = 0x5C then (.hunting false true, []) else (.discarding false, [.discardRunStart])
      | _ => (.discarding (b = 0x5C), [.discardRunStart])
  | .hunting _ _, .idle => (.hunting true false, [])
  | .receiving bytes, .driven b => hearFrameByte (bytes ++ [b]) instant order
  | .receiving _, .idle => (.hunting true false, [.corruptReception])
  | .discarding half, .driven b => if half && b = 0xE3 then (.receiving [], [.leadFound]) else (.discarding (b = 0x5C), [])
  | .discarding _, .idle => (.hunting true false, [.corruptReception])

end Sys2Proof.Machine
end

