-- ==== Sys2Proof/Machine/Dispatch.lean ====
section
/-! DEFINITION. Machine/Dispatch.lean: the meaning of every command, one arm per row of the table. -/

namespace Sys2Proof.Machine

def exec (i : Instr) (s : State) : Host.Outcome State Fault Refusal :=
  match i with
  | .powerOnReset => Sys2Proof.Machine.execPowerOnReset s
  | .initPassStep => Sys2Proof.Machine.execInitPassStep s
  | .hostDataAccess address lanes access => Sys2Proof.Machine.execHostDataAccess address lanes access s
  | .hostStoreClaimGranted => Sys2Proof.Machine.execHostStoreClaimGranted s
  | .controlRegionWrite word lanes value => Sys2Proof.Machine.execControlRegionWrite word lanes value s
  | .badCommandCode code tag => Sys2Proof.Machine.execBadCommandCode code tag s
  | .configure tag => Sys2Proof.Machine.execConfigure tag s
  | .configureComplete => Sys2Proof.Machine.execConfigureComplete s
  | .join tag => Sys2Proof.Machine.execJoin tag s
  | .leave tag => Sys2Proof.Machine.execLeave tag s
  | .resetStation tag => Sys2Proof.Machine.execResetStation tag s
  | .declare window tag => Sys2Proof.Machine.execDeclare window tag s
  | .resync window tag => Sys2Proof.Machine.execResync window tag s
  | .watch window setting tag => Sys2Proof.Machine.execWatch window setting tag s
  | .clearWritten window tag => Sys2Proof.Machine.execClearWritten window tag s
  | .sendNotice target level noticeTag tag => Sys2Proof.Machine.execSendNotice target level noticeTag tag s
  | .takeNotice tag => Sys2Proof.Machine.execTakeNotice tag s
  | .setThreshold threshold tag => Sys2Proof.Machine.execSetThreshold threshold tag s
  | .fence fenceTag tag => Sys2Proof.Machine.execFence fenceTag tag s
  | .takeEvent tag => Sys2Proof.Machine.execTakeEvent tag s
  | .windowStatus window tag => Sys2Proof.Machine.execWindowStatus window tag s
  | .rosterStatus index tag => Sys2Proof.Machine.execRosterStatus index tag s
  | .stationStatus tag => Sys2Proof.Machine.execStationStatus tag s
  | .openReceived header digest cold leaving current position order => Sys2Proof.Machine.execOpenReceived header digest cold leaving current position order s
  | .closeReceived header updates frames touched => Sys2Proof.Machine.execCloseReceived header updates frames touched s
  | .updReceived header window first block words => Sys2Proof.Machine.execUpdReceived header window first block words s
  | .updateApplied => Sys2Proof.Machine.execUpdateApplied s
  | .ntcReceived header target level tag => Sys2Proof.Machine.execNtcReceived header target level tag s
  | .creqReceived header window attempt first last => Sys2Proof.Machine.execCreqReceived header window attempt first last s
  | .cbegReceived header joiner window first last => Sys2Proof.Machine.execCbegReceived header joiner window first last s
  | .cblkReceived header joiner window block words => Sys2Proof.Machine.execCblkReceived header joiner window block words s
  | .copiedBlockWritten => Sys2Proof.Machine.execCopiedBlockWritten s
  | .cendReceived header joiner window count => Sys2Proof.Machine.execCendReceived header joiner window count s
  | .ccanReceived header donor window => Sys2Proof.Machine.execCcanReceived header donor window s
  | .cabtReceived header joiner window => Sys2Proof.Machine.execCabtReceived header joiner window s
  | .corruptReception => Sys2Proof.Machine.execCorruptReception s
  | .openReadback intact => Sys2Proof.Machine.execOpenReadback intact s
  | .updReadback intact => Sys2Proof.Machine.execUpdReadback intact s
  | .ntcReadback intact => Sys2Proof.Machine.execNtcReadback intact s
  | .creqReadback intact => Sys2Proof.Machine.execCreqReadback intact s
  | .cbegReadback intact => Sys2Proof.Machine.execCbegReadback intact s
  | .closeReadback intact => Sys2Proof.Machine.execCloseReadback intact s
  | .otherFrameReadback intact => Sys2Proof.Machine.execOtherFrameReadback intact s
  | .slotStart slot => Sys2Proof.Machine.execSlotStart slot s
  | .slotFrameOffer => Sys2Proof.Machine.execSlotFrameOffer s
  | .copyReadGranted => Sys2Proof.Machine.execCopyReadGranted s
  | .openGraceExpiry slot => Sys2Proof.Machine.execOpenGraceExpiry slot s
  | .slotEnd slot => Sys2Proof.Machine.execSlotEnd slot s
  | .roundEnd => Sys2Proof.Machine.execRoundEnd s
  | .misalignedRoundTest => Sys2Proof.Machine.execMisalignedRoundTest s
  | .syncLoss => Sys2Proof.Machine.execSyncLoss s
  | .rosterSilenceCheck => Sys2Proof.Machine.execRosterSilenceCheck s
  | .peerSilent station => Sys2Proof.Machine.execPeerSilent station s
  | .coldMarkReduction => Sys2Proof.Machine.execColdMarkReduction s
  | .waitTimerExpiry => Sys2Proof.Machine.execWaitTimerExpiry s
  | .stallTimerExpiry => Sys2Proof.Machine.execStallTimerExpiry s
  | .offerLapse => Sys2Proof.Machine.execOfferLapse s
  | .quietTimerExpiry => Sys2Proof.Machine.execQuietTimerExpiry s
  | .joinTimerExpiry => Sys2Proof.Machine.execJoinTimerExpiry s
  | .standoffTimerExpiry => Sys2Proof.Machine.execStandoffTimerExpiry s
  | .leadFound => Sys2Proof.Machine.execLeadFound s
  | .discardRunStart => Sys2Proof.Machine.execDiscardRunStart s

end Sys2Proof.Machine
end

