-- ==== Sys2Proof/Safety.lean ====
section
/-! DEFINITION. Safety.lean: what holds of the station between any two commands, in the terms that claims use. -/

namespace Sys2Proof.Machine

/-- Both of the station's memories, and the copy of a CONFIGURE in flight, are in canonical form. -/
def State.Canonical (s : State) : Prop :=
  s.store.wf = true ∧ s.region.wf = true ∧ ∀ c, s.inFlight = some c → c.staged.wf = true

/-- The control frames, which alone the Control Queue holds (R102). -/
def isControl : FrameBody → Bool
  | .creq _ _ _ _ | .cbeg _ _ _ _ | .cend _ _ _ | .ccan _ _ | .cabt _ _ => true
  | .opn _ _ _ _ | .close _ _ _ | .upd _ _ _ _ | .ntc _ _ _ | .cblk _ _ _ _ => false

/-- No queue or list holds more than the manual gives it, and a flag that reports a drop stands over something to take
(R97, R102, R115, R145, R159, R163, R169, R170); a FENCE never stands at the head of the Outbound Queue (R101). -/
structure State.WithinLimits (s : State) : Prop where
  outbound : s.outbound.length ≤ 64
  noFenceAtHead : fencesAtHead s.outbound = []
  control : s.control.length ≤ 16
  controlFrames : ∀ b ∈ s.control, isControl b = true
  serving : s.serving.length ≤ 4
  held : ∀ a, s.account = some a → a.held.length ≤ 253
  events : s.events.length ≤ 32
  overflow : s.eventOverflow = true → s.events ≠ []
  notices : ∀ i : Fin 7, (s.notices.queue i).notices.length ≤ 4
  overrun : ∀ i : Fin 7, (s.notices.queue i).overrun = true → (s.notices.queue i).notices ≠ []

/-- The Round Clock and the receiver stand as the station state has them (R52, R61, R64). -/
structure State.ClockAgrees (s : State) : Prop where
  position : s.clock.position.isSome = true ↔ s.station.clockMode = .running
  quiet : s.clock.quiet.isSome = true ↔ s.station = .listening
  join : s.clock.join.isSome = true ↔ s.station = .listening
  standoff : s.clock.standoff.isSome = true ↔ s.station = .standoff
  receiver : s.receiver = .off ↔ s.station.onLine = false

/-- What the station holds only while it takes part in the line, or only while it is ACTIVE (R25, R71, R97, R102, R115,
R128, R145, R156). -/
structure State.QuietOffLine (s : State) : Prop where
  outbound : s.station.takesPart = false → s.outbound = []
  control : s.station.takesPart = false → s.control = []
  account : s.station.takesPart = false → s.account = none
  resync : s.station ≠ .active → s.resync = []
  catchUp : s.station ≠ .active → s.catchUp = none
  serving : s.station ≠ .active → s.serving = []
  turn : s.station ≠ .active → s.turn = none
  roster : s.station.clockMode = .stopped → s.roster = []

/-- Every held window's span lies in the store, and so does every claim on it (R2, R3, R15). -/
structure State.SpansInStore (s : State) : Prop where
  spans : ∀ w h, (s.window w).holding = some h → h.base + h.count ≤ 8192
  claims : ∀ c ∈ s.frameClaims, match c with
    | .update _ _ block _ _ => block < 8192
    | .copied _ block _ => block < 8192
  initPass : ∀ b, s.initPass = some b → b < 8192

/-- The init pass runs in INITIALISING alone, a profile is in force from CONFIGURED on, and it passed the check of CONFIGURE
that the windows rest on (R16, R28, R79, R81, R83). -/
structure State.ProfileAgrees (s : State) : Prop where
  initPass : s.initPass ≠ none ↔ s.station = .initialising
  installed : s.profile = none ↔ s.station = .initialising ∨ s.station = .unconfigured
  limit : ∀ p, s.profile = some p → 1 ≤ p.attemptLimit
  inFlight : s.inFlight ≠ none → s.station = .unconfigured ∨ s.station = .configured

/-- The window records agree with the profile, the resync list, the catch-up record and the station state: the currency
and the attempt count of every window are those the manual allows there (R2, R22, R25, R28, R31, R33, R36, R128). -/
structure State.WindowsAgree (s : State) : Prop where
  held : ∀ w, (s.window w).holding = none ↔ (s.window w).currency = .unheld
  catchingUp : ∀ w, (s.window w).currency = .catchingUp ↔ ∃ c, s.catchUp = some c ∧ c.window = w
  listed : s.station = .active → ∀ w, w ∈ s.resync ↔ (s.window w).currency = .stale
  listedOnce : s.resync.Nodup
  offLine : s.station.takesPart = false → ∀ w,
    (s.window w).currency = .unheld ∨ ((s.window w).currency = .stale ∧ (s.window w).attempts = 0)
  attempts : ∀ w, match (s.window w).currency with
    | .unheld | .current => (s.window w).attempts = 0
    | .stale | .catchingUp => (s.window w).attempts < s.attemptLimit
    | .stranded => (s.window w).attempts = s.attemptLimit
  marks : ∀ w n, (s.window w).coldMark = some n →
    s.station = .active ∧ (s.window w).currency = .current ∧ 1 ≤ n ∧ n ≤ 4

/-- The serving list agrees with the turn and with the windows: no two records have the same joiner and window, the turn
names a record of the list, and every record is of a CURRENT window (R23, R145, R151, R154). -/
structure State.ServingAgrees (s : State) : Prop where
  pairs : (s.serving.map ServingRecord.pair).Nodup
  turn : ∀ pair, s.turn = some pair → ∃ r ∈ s.serving, r.pair = pair
  current : ∀ r ∈ s.serving, (s.window r.window).currency = .current

/-- A PRESENT peer's silent rounds stand at the silence limit: its departure at the round end that brought them there is
still to come (R75; log entry 8). -/
def State.DepartureDue (s : State) : Prop := ∃ r ∈ s.roster, r.state = .present ∧ r.silent = s.silenceLimit

/-- The window that the Resync Unit tries next (R129): in ACTIVE with no catch-up record, and behind every departure of the
Roster's examination (log entry 8), the oldest window of the resync list that a PRESENT peer advertises. -/
def State.nextTried (s : State) : Option WindowNo :=
  if s.station = .active ∧ s.catchUp = none ∧ ∀ r ∈ s.roster, ¬ (r.state = .present ∧ r.silent = s.silenceLimit) then
    s.resync.find? s.advertised
  else none

/-- Everything the manual says holds of the station between two commands, in one; no attempt that can begin waits (R129), but
behind a departure of the Roster's examination that is due (log entry 8). -/
structure State.Sound (s : State) : Prop where
  clock : s.ClockAgrees
  quiet : s.QuietOffLine
  profile : s.ProfileAgrees
  windows : s.WindowsAgree
  serving : s.ServingAgrees
  settled : s.nextTried = none

/-! ## The checks of a data access (R9, R10), in the order of R9's table -/

/-- The station states, and the condition on CONFIGURE, in which host data access is allowed (R10). -/
def hostAccessOpen (s : State) : Bool :=
  decide (s.station = .active) || decide (s.station = .leaving) ||
    (decide (s.station = .configured) && s.inFlight.isNone)

/-- The conditions for an access to go on, with the kind of the fault where one does not hold (R9): checks 1 to 5 for
every access, check 6 on-line, checks 7a to 7c for on-line writes. -/
def accessChecks (s : State) (a : HostAccess) : List (Bool × AccessFault) :=
  let r := s.addressed a
  let onLine := s.station = .active ∨ s.station = .leaving
  let onLineWrite := onLine ∧ a.isWrite = true
  [ (hostAccessOpen s, .notAvailable),
    (decide (r.holding ≠ none), .unheld),
    (decide (a.block < r.globalLength), .beyondWindow),
    (r.inExtent a.block, .outOfExtent),
    (lanesAll a.lanes, .partialWord),
    (decide (onLine → r.currency = .current), .notCurrent),
    (decide (onLineWrite → r.accessCode = 2), .readOnly),
    (decide (onLineWrite → s.station = .active), .notAvailable),
    (decide (onLineWrite → s.queueTakes a = true), .queueFull) ]

/-- The conditions for a granted claim to go on: one taken on-line is overtaken by a change of station state out of ACTIVE or
LEAVING (R13), and then come the checks of R9. -/
def claimChecks (s : State) (c : HostClaim) : List (Bool × AccessFault) :=
  (decide (c.onLine = true → s.station = .active ∨ s.station = .leaving), .notAvailable) :: accessChecks s c.access

/-- The kind of the first check that fails. -/
def firstFailed (checks : List (Bool × AccessFault)) : Option AccessFault :=
  (checks.find? fun c => !c.1).map Prod.snd

/-! ## The checks of CONFIGURE (R3, R58, R166), in their order -/

/-- The checks of R3 on the entry of window w, with the entries before it. -/
def windowChecks (w : Nat) (before : List RawWindow) (r : RawWindow) : List (Bool × ProfileErrorKind × Nat) :=
  let held := r.accessCode ≠ 0
  [ (decide (r.globalLength ≤ 1024), .badWindow, w),
    (decide (r.accessCode ≤ 2), .badWindow, w),
    (decide (r.globalLength = 0 → r.accessCode = 0), .badWindow, w),
    (decide (held → 1 ≤ r.count ∧ r.count ≤ r.globalLength ∧ (r.directionCode = 0 ∨ r.directionCode = 1)),
      .badWindow, w),
    (decide (held → r.base ≤ 8191 ∧ r.base + r.count ≤ 8192), .spanBeyondStore, w),
    (decide (held → ∀ q ∈ before, q.accessCode ≠ 0 → r.base + r.count ≤ q.base ∨ q.base + q.count ≤ r.base),
      .overlap, w) ]

/-- The checks of R3 on every entry, in window-number order. -/
def allWindowChecks : Nat → List RawWindow → List RawWindow → List (Bool × ProfileErrorKind × Nat)
  | _, _, [] => []
  | w, before, r :: rest => windowChecks w before r ++ allWindowChecks (w + 1) (before ++ [r]) rest

/-- The checks of R166 with the geometry checks of R58, each with its kind and its index. -/
def profileChecks (p : RawProfile) : List (Bool × ProfileErrorKind × Nat) :=
  [ (decide (2 ≤ p.slots ∧ p.slots ≤ 32), .badGeometry, 1),
    (decide (256 ≤ p.slotLength ∧ p.slotLength ≤ 4096 ∧ p.slotLength % 16 = 0), .badGeometry, 2),
    (decide (16 ≤ p.settle ∧ p.settle ≤ 1024), .badGeometry, 3),
    (decide (16 ≤ p.drain ∧ p.drain ≤ 1024), .badGeometry, 4),
    (decide (32 ≤ p.grace ∧ p.grace ≤ 255), .badGeometry, 5),
    (decide (p.slots * p.slotLength ≤ 65536), .badGeometry, 6),
    (decide (p.grace + 20 < p.slotLength), .badGeometry, 7),
    (decide (p.station ≤ 63), .tooManyStations, p.station),
    (decide (∃ owner ∈ p.allotment, owner.toNat = p.station), .notAllotted, p.station),
    (decide (p.copyShare ≤ 16), .badTimer, 1),
    (decide (2 ≤ p.catchUpWait ∧ p.catchUpWait ≤ 16), .badTimer, 2),
    (decide (2 ≤ p.copyStall ∧ p.copyStall ≤ 16), .badTimer, 3),
    (decide (1 ≤ p.attemptLimit ∧ p.attemptLimit ≤ 7), .badTimer, 4),
    (decide (1 ≤ p.silenceLimit ∧ p.silenceLimit ≤ 8), .badTimer, 5) ] ++ allWindowChecks 0 [] p.windows

/-- The kind and the index of the first check that fails. -/
def firstFailure (checks : List (Bool × ProfileErrorKind × Nat)) : Option (ProfileErrorKind × Nat) :=
  (checks.find? fun c => !c.1).map Prod.snd

/-- The record that CONFIGURE installs from the entry of a window (R4). -/
def installedRecord (r : RawWindow) : WindowRecord :=
  { globalLength := r.globalLength
    holding :=
      if r.accessCode = 0 then none
      else some { mode := if r.accessCode = 1 then .read else .write, count := r.count,
                  direction := if r.directionCode = 0 then .up else .down, base := r.base }
    currency := if r.accessCode = 0 then .unheld else .stale }

/-! ## What the host sees of a command -/

/-- The station has answered a command of the command record (R165): the whole completion record is written, with result
bytes laid out as R174 gives.  That the command record holds the code, operands and tag that the row filled in, and else
what it held, is the model's choice (log entry 1). -/
def Answers (s t : State) (code : Nat) (operands : List Word) (tag : Word) (status : CompletionStatus)
    (bytes : List Byte) : Prop :=
  t.region = (s.fillCommand code operands tag).region ∧
    t.completion = { status := status, code := BitVec.ofNat 8 code, tag := tag, count := s.completion.count + 1,
                     result := resultWords bytes }

/-- The code and the operand words with which a command row fills the command record, and its tag (the table of
section 11.3). -/
def commandRow : Instr → Option (Nat × List Word × Word)
  | .configure tag => some (1, [], tag)
  | .join tag => some (2, [], tag)
  | .leave tag => some (3, [], tag)
  | .resetStation tag => some (4, [], tag)
  | .declare window tag => some (5, [window], tag)
  | .resync window tag => some (6, [window], tag)
  | .watch window setting tag => some (7, [window, setting], tag)
  | .clearWritten window tag => some (8, [window], tag)
  | .sendNotice target level noticeTag tag => some (9, [target, level, noticeTag], tag)
  | .takeNotice tag => some (10, [], tag)
  | .setThreshold threshold tag => some (11, [threshold], tag)
  | .fence fenceTag tag => some (12, [fenceTag], tag)
  | .takeEvent tag => some (13, [], tag)
  | .windowStatus window tag => some (14, [window], tag)
  | .rosterStatus index tag => some (15, [index], tag)
  | .stationStatus tag => some (16, [], tag)
  | _ => none

/-- A command row ends in this state with this completion (R165). -/
def Completes (i : Instr) (s t : State) (status : CompletionStatus) (bytes : List Byte) : Prop :=
  exec i s = .next t ∧
    match commandRow i with
    | none => False
    | some (code, operands, tag) => Answers s t code operands tag status bytes

/-- A command row completes and changes nothing else (R165). -/
def OnlyCompletes (i : Instr) (s : State) (status : CompletionStatus) (bytes : List Byte) : Prop :=
  ∃ t, Completes i s t status bytes ∧ t = { s with region := t.region, completion := t.completion }

/-- The event queue and the overflow flag after events are appended one after the other (R169). -/
def State.reported (s : State) (events : List Event) : State := events.foldl State.appendEvent s

/-- The state after is the state before, but for the event queue with these events appended (R169). -/
def Reports (s t : State) (events : List Event) : Prop :=
  t.events = (s.reported events).events ∧ t.eventOverflow = (s.reported events).eventOverflow

/-! ## The codes and layouts of R174, field by field -/

/-- The code of a name: its place, from 0, in its defining table (R174). -/
def tableByte {α : Type} [DecidableEq α] (table : List α) (x : α) : Byte := BitVec.ofNat 8 (table.idxOf x)

/-- The table of section 5.1. -/
def stationStates : List StationState :=
  [.initialising, .unconfigured, .configured, .listening, .coldStart, .active, .leaving, .standoff, .muted]

/-- The table of R79. -/
def stationCauses : List StationCause :=
  [.initDone, .configure, .join, .matchingOpen, .quietExpired, .joinLimit, .coldOpenIntact, .coldOpenLost, .openLost,
    .syncLoss, .standoffExpired, .leave, .leaveDone]

/-- The table of R2. -/
def currencies : List Currency := [.unheld, .stale, .catchingUp, .current, .stranded]

/-- The table of R24. -/
def windowCauses : List WindowCause :=
  [.configure, .catchUpBegun, .attemptFailed, .catchUpDone, .loss, .coldStart, .coldYield, .leave, .declare, .resync]

/-- The table of R27. -/
def failureKinds : List FailureKind := [.waitExpired, .stallExpired, .donorAborted, .incomplete, .donorAbsent, .loss]

/-- The table of R9. -/
def accessFaults : List AccessFault :=
  [.notAvailable, .unheld, .beyondWindow, .outOfExtent, .partialWord, .notCurrent, .readOnly, .queueFull]

/-- The completion statuses of R174. -/
def completionStatuses : List CompletionStatus :=
  [.done, .busy, .badState, .badOperand, .queueFull, .empty, .profileError]

/-- A value of two bytes, high byte first (R172). -/
def twoBytes (n : Nat) : List Byte := [BitVec.ofNat 8 (n / 256), BitVec.ofNat 8 n]

/-- A value of two bytes that may be absent, then FFFFh (R174). -/
def twoBytesOr (x : Option Half) : List Byte :=
  match x with
  | none => [0xFF, 0xFF]
  | some h => twoBytes h.toNat

/-- A byte that is 1 where something holds and 0 otherwise (R174). -/
def truthByte (b : Bool) : Byte := if b = true then 1 else 0

/-- The kind code of an event record and its detail d0 on, by the table of R174.  An absent cause's byte reads FFh (DEDUCED
where the table does not say so, log entry 17). -/
def kindAndDetail : EventDetail → Byte × List Byte
  | .stationState previous next cause count => (0, [tableByte stationStates previous, tableByte stationStates next,
      tableByte stationCauses cause, BitVec.ofNat 8 count])
  | .windowState previous next cause attempts failure => (1, [tableByte currencies previous, tableByte currencies next,
      tableByte windowCauses cause, BitVec.ofNat 8 attempts, match failure with
        | none => 0xFF
        | some kind => tableByte failureKinds kind])
  | .windowChanged sender => (2, [sender])
  | .catchUpDone donor blocks attempt => (3, donor :: twoBytes blocks ++ [BitVec.ofNat 8 attempt])
  | .catchUpFailed attempts failure => (4, [BitVec.ofNat 8 attempts, tableByte failureKinds failure])
  | .coldYield misaligned changed => (5, [truthByte misaligned, BitVec.ofNat 8 changed])
  | .fenceDone flushed => (6, [truthByte flushed])
  | .outboundFlushed updates notices inFlight =>
    (7, [BitVec.ofNat 8 updates, BitVec.ofNat 8 notices, truthByte inFlight])
  | .ownFrameLost slot .opn => (8, [1, slot])
  | .ownFrameLost slot (.upd w block first count) =>
    (8, [3, slot, BitVec.ofNat 8 w.val] ++ twoBytes block.toNat ++ [BitVec.ofNat 8 first.toNat, BitVec.ofNat 8 count])
  | .ownFrameLost slot (.ntc target level tag) =>
    (8, [4, slot, target, BitVec.ofNat 8 level.toNat] ++ twoBytes tag.toNat)
  | .slotLoss cause slot ending frames updates closeCounts corrupt =>
    (9, [tableByte [.noClose, .framesShort, .inconsistent, .unopened] cause, slot, match ending with
        | none => 0xFF
        | some e => tableByte [.nextOpen, .expired] e,
      BitVec.ofNat 8 frames, BitVec.ofNat 8 updates, match closeCounts with
        | none => 0xFF
        | some (closeFrames, _) => closeFrames, match closeCounts with
        | none => 0xFF
        | some (_, closeUpdates) => closeUpdates, BitVec.ofNat 8 corrupt])
  | .peerArrived slot cold => (10, [slot, truthByte cold])
  | .peerDeparted cause lastHeard => (11, tableByte [.silent, .orderly, .foreign] cause :: twoBytesOr lastHeard)
  | .hostFault kind offset write => (12, tableByte accessFaults kind :: twoBytes offset ++ [truthByte write])

/-! ## What a happening sets off in the catch-up units -/

/-- The Control Queue after a frame is appended: at 16 frames it is not queued (R102). -/
def queued (queue : List FrameBody) (f : FrameBody) : List FrameBody := if queue.length < 16 then queue ++ [f] else queue

/-- The Control Queue after the records of a list have ended one after the other, each with a CABT queued first where the
joiner is told, and with its CBEG unqueued (R146, R154, R155). -/
def afterEndings (told : Bool) (queue : List FrameBody) (records : List ServingRecord) : List FrameBody :=
  records.foldl (fun q r => (if told then queued q (.cabt r.joiner r.window) else q).erase r.cbeg) queue

/-- The Control Queue after every record has ended with a LEAVE: the CABTs are queued first, in list order, and the CBEGs
unqueued behind them (R93, R156). -/
def afterLeave (queue : List FrameBody) (records : List ServingRecord) : List FrameBody :=
  records.foldl (fun q r => q.erase r.cbeg) (records.foldl (fun q r => queued q (.cabt r.joiner r.window)) queue)

/-- Some serving records have gone: the list keeps the others in order, the turn stays or moves to the record left before
its own, and a copy read that waits for a record that went is withdrawn, which stops the copy step (R21, R109, R151). -/
structure RecordsGone (ended : ServingRecord → Bool) (s t : State) : Prop where
  serving : t.serving = s.serving.filter fun r => !ended r
  turnStays : (∀ r ∈ s.serving, s.turn = some r.pair → ended r = false) → t.turn = s.turn
  turnMoves : ∀ before r after, s.serving = before ++ r :: after → s.turn = some r.pair → ended r = true →
    t.turn = (before.filter fun q => !ended q).getLast?.map ServingRecord.pair
  copyReadStays : (∀ r ∈ s.serving, s.copyRead = some r.pair → ended r = false) →
    t.copyRead = s.copyRead ∧ t.filler = s.filler
  copyReadGoes : (∃ r ∈ s.serving, s.copyRead = some r.pair ∧ ended r = true) →
    t.copyRead = none ∧ t.filler = s.filler.map Filling.stopCopy

/-- Serving records have ended, one after the other, with a CABT to the joiner where it is told (R146, R148 to R150, R154,
R155). -/
def RecordsEnded (ended : ServingRecord → Bool) (told : Bool) (s t : State) : Prop :=
  RecordsGone ended s t ∧ t.control = afterEndings told s.control (s.serving.filter ended)

/-- The test of R129 has been made, and an attempt has begun where one can, which the model holds back while a departure of
the Roster's examination is due (R26, R129, R130; log entry 8): the record is REQUESTED with
the catch-up wait, the CREQ is queued, the window is CATCHING_UP and off the list, and the change is reported. -/
def AttemptTested (s t : State) : Prop :=
  match s.nextTried with
  | none => t = s
  | some w =>
    t.catchUp = some { window := w, attempt := (s.window w).attempts + 1, phase := .requested s.catchUpWait,
                       cancelled := [] } ∧
    t.resync = s.resync.erase w ∧
    t.control = queued s.control (.creq w (BitVec.ofNat 3 ((s.window w).attempts + 1))
      (BitVec.ofNat 10 (s.window w).firstHeld) (BitVec.ofNat 10 (s.window w).lastHeld)) ∧
    t.windows = s.windows.set w { s.window w with currency := .catchingUp, coldMark := none } ∧
    Reports s t [⟨subjectOf w.val, s.clock.round,
      .windowState (s.window w).currency .catchingUp .catchUpBegun (s.window w).attempts none⟩] ∧
    t = { s with catchUp := t.catchUp, resync := t.resync, control := t.control, windows := t.windows,
                 events := t.events, eventOverflow := t.eventOverflow }

/-- The attempt in progress has failed (R27, R139, R140): the record is gone, its window is STALE at the tail of the resync
list or STRANDED at the limit, a queued CREQ is unqueued or a CCAN queued to the donor as the table of R140 gives, and
the change is reported. -/
def AttemptFailed (kind : FailureKind) (s t : State) : Prop :=
  ∃ c, s.catchUp = some c ∧
    let r := s.window c.window
    let below := r.attempts + 1 < s.attemptLimit
    t.catchUp = none ∧
    t.window c.window = { r with
      currency := if below then .stale else .stranded, attempts := r.attempts + 1, coldMark := none } ∧
    (∀ x, x ≠ c.window → t.window x = s.window x) ∧
    t.resync = (if below then s.resync ++ [c.window] else s.resync) ∧
    t.control = (match c.phase with
      | .requested _ => s.control.erase (r.creq c.window c.attempt)
      | .copying donor _ _ =>
        if (kind = .stallExpired ∨ kind = .loss) ∧ donor ∉ c.cancelled then queued s.control (.ccan donor c.window)
        else s.control) ∧
    Reports s t (⟨subjectOf c.window.val, s.clock.round,
        .windowState r.currency (if below then .stale else .stranded) .attemptFailed (r.attempts + 1) (some kind)⟩ ::
      if below then []
      else [⟨subjectOf c.window.val, s.clock.round, .catchUpFailed (r.attempts + 1) kind⟩]) ∧
    t = { s with catchUp := none, windows := t.windows, resync := t.resync, control := t.control, events := t.events,
                 eventOverflow := t.eventOverflow }

/-- The Control Queue after a loss against one window (R30, R140, R154). -/
def lossQueue (s : State) (queue : List FrameBody) (w : WindowNo) : List FrameBody :=
  match (s.window w).currency with
  | .current => afterEndings true queue (s.serving.filter fun r => decide (r.window = w))
  | .catchingUp =>
    match s.catchUp with
    | none => queue
    | some { attempt := n, phase := .requested _, .. } => queue.erase ((s.window w).creq w n)
    | some { phase := .copying donor _ _, cancelled := cancelled, .. } =>
      if donor ∈ cancelled then queue else queued queue (.ccan donor w)
  | .stale | .stranded | .unheld => queue

/-- The events of a loss against one window (R24, R27, R30). -/
def lossEvents (s : State) (w : WindowNo) : List Event :=
  let r := s.window w
  match r.currency with
  | .current => [⟨subjectOf w.val, s.clock.round, .windowState .current .stale .loss r.attempts none⟩]
  | .catchingUp =>
    if r.attempts + 1 < s.attemptLimit then
      [⟨subjectOf w.val, s.clock.round, .windowState .catchingUp .stale .attemptFailed (r.attempts + 1) (some .loss)⟩]
    else
      [⟨subjectOf w.val, s.clock.round,
          .windowState .catchingUp .stranded .attemptFailed (r.attempts + 1) (some .loss)⟩,
        ⟨subjectOf w.val, s.clock.round, .catchUpFailed (r.attempts + 1) .loss⟩]
  | .stale | .stranded | .unheld => []

/-- A loss against one window leaves it STALE (R27, R30). -/
def lossStales (s : State) (w : WindowNo) : Bool :=
  (s.window w).currency = .current ||
    ((s.window w).currency = .catchingUp && (s.window w).attempts + 1 < s.attemptLimit)

/-- A loss has been raised against every window that passes a test, in window-number order, each acting by the window's
currency (R30); in LEAVING the windows that go STALE are not listed. -/
structure LossesTaken (test : WindowNo → Bool) (s t : State) : Prop where
  untouched : ∀ w, test w = false → t.window w = s.window w
  current : ∀ w, test w = true → (s.window w).currency = .current →
    t.window w = { s.window w with currency := .stale, coldMark := none }
  catchingUp : ∀ w, test w = true → (s.window w).currency = .catchingUp →
    t.window w = { s.window w with
      currency := if (s.window w).attempts + 1 < s.attemptLimit then .stale else .stranded
      attempts := (s.window w).attempts + 1, coldMark := none }
  others : ∀ w, (s.window w).currency ≠ .current → (s.window w).currency ≠ .catchingUp → t.window w = s.window w
  record : t.catchUp = if s.catchUp.any (fun c => test c.window) = true then none else s.catchUp
  listed : t.resync = if s.station = .active then s.resync ++ allWindows.filter (fun w => test w && lossStales s w) else s.resync
  records : RecordsGone (fun r => test r.window) s t
  control : t.control = (allWindows.filter test).foldl (lossQueue s) s.control
  events : Reports s t ((allWindows.filter test).map (lossEvents s)).flatten
  frame : t = { s with
    windows := t.windows, catchUp := t.catchUp, resync := t.resync, control := t.control, copyRead := t.copyRead
    filler := t.filler, serving := t.serving, turn := t.turn, events := t.events, eventOverflow := t.eventOverflow }

/-- The cold contest has been yielded to station x (R89, R34): every CURRENT window is STALE and listed in window-number
order, every cold mark is gone, the serving records of those windows have ended, and all of it is reported. -/
structure Yielded (x : StationNo) (misaligned : Bool) (s t : State) : Prop where
  windows : ∀ w, t.window w = { s.window w with
    currency := if (s.window w).currency = .current then .stale else (s.window w).currency, coldMark := none }
  listed : t.resync = s.resync ++ allWindows.filter fun w => decide ((s.window w).currency = .current)
  records : RecordsGone (fun r => decide ((s.window r.window).currency = .current)) s t
  control : t.control = (allWindows.filter fun w => decide ((s.window w).currency = .current)).foldl (lossQueue s) s.control
  events : Reports s t
    (⟨subjectOf x.toNat, s.clock.round,
        .coldYield misaligned (allWindows.filter fun w => decide ((s.window w).currency = .current)).length⟩ ::
      (allWindows.filter fun w => decide ((s.window w).currency = .current)).map fun w =>
        ⟨subjectOf w.val, s.clock.round, .windowState .current .stale .coldYield (s.window w).attempts none⟩)
  frame : t = { s with
    windows := t.windows, resync := t.resync, control := t.control, copyRead := t.copyRead, filler := t.filler
    serving := t.serving, turn := t.turn, events := t.events, eventOverflow := t.eventOverflow }

/-- The roster with the record of one station changed. -/
def rosterWith (roster : List RosterRecord) (station : StationNo) (f : RosterRecord → RosterRecord) :
    List RosterRecord :=
  roster.map fun r => if r.station = station then f r else r

/-- The donor of the attempt in progress, in COPYING (R128). -/
def State.donor (s : State) : Option StationNo :=
  match s.catchUp with
  | some { phase := .copying donor _ _, .. } => some donor
  | _ => none

/-- A station's record has left its state for ABSENT or FOREIGN; one that was PRESENT has departed, which fails the attempt
that copies from it and ends the serving records that it joined by, without a CABT (R74 to R78, R138, R155). -/
def Departed (station : StationNo) (next : RosterState) (cause : DepartCause) (s t : State) : Prop :=
  match s.rosterOf station with
  | none => t = s
  | some r =>
    if r.state = .present then
      ∃ u v, Reports s u [⟨subjectOf station.toNat, s.clock.round, .peerDeparted cause r.lastHeard⟩] ∧
        u = { s with roster := rosterWith s.roster station fun q => { q with state := next }
                     events := u.events, eventOverflow := u.eventOverflow } ∧
        (if s.donor = some station then AttemptFailed .donorAbsent u v else v = u) ∧
        RecordsEnded (fun q => decide (q.joiner = station)) false v t ∧
        t = { v with control := t.control, copyRead := t.copyRead, filler := t.filler, serving := t.serving,
                     turn := t.turn }
    else t = { s with roster := rosterWith s.roster station fun q => { q with state := next } }

/-- What follows the losses of an account's ending (R125, R76): the held notices are delivered in order, and the sender of
a LEAVING slot departs in order. -/
def AccountFinished (a : Account) (s t : State) : Prop :=
  ∃ u, u = { s with notices := (s.deliverAll a.held).notices } ∧
    if a.leaving = true then Departed a.sender .absent .orderly u t else t = u

/-- The open account has ended without a CLOSE (R120, R123): SLOT_LOSS, then a loss against every held window. -/
def EndedUnclosed (a : Account) (ending : AccountEnding) (s t : State) : Prop :=
  ∃ u v, Reports s u [⟨subjectOf a.sender.toNat, s.clock.round,
      .slotLoss .noClose a.slot (some ending) a.frames a.updates none a.corrupt⟩] ∧
    u = { s with account := none, events := u.events, eventOverflow := u.eventOverflow } ∧
    LossesTaken (fun w => (s.window w).isHeld) u v ∧ AccountFinished a v t

/-- The station has come off the line to LISTENING, STANDOFF or CONFIGURED (R80, R36, R113, R125); a LEAVING account then
open is not reported to the Roster (log entry 22). -/
structure CameOff (p : Profile) (next : StationState) (cause : StationCause) (s t : State) : Prop where
  windows : ∀ w, t.window w =
    if (s.window w).holding = none then s.window w
    else { s.window w with currency := .stale, attempts := 0, coldMark := none }
  clock : t.clock = { s.clock with
    position := none, misalignedCount := 0, onTimeMark := false, misalignedMark := false, syncLoss := false
    quiet := if next = .listening then some p.quietLength else none
    join := if next = .listening then some p.joinLength else none
    standoff := if next = .standoff then some p.standoffLength else none
    foreignMark := if next = .listening then false else s.clock.foreignMark }
  roster : t.roster =
    if next = .listening then p.peers.map fun peer => { station := peer }
    else if next = .standoff then s.roster else []
  slot : t.filler = if s.transmitter = none then none else s.filler.map fun f => { f with step := .abandoned }
  notices : t.notices = (s.deliverAll s.heldNotices).notices
  events : Reports s t
    (⟨s.ownSubject, s.clock.round, .stationState s.station next cause
        (allWindows.filter fun w => (s.window w).isHeld && decide ((s.window w).currency ≠ .stale)).length⟩ ::
      (s.outbound.filterMap fun e => match e with
        | .fence tag => some ⟨some tag, s.clock.round, .fenceDone true⟩
        | .update _ _ _ _ _ => none
        | .notice _ _ _ => none) ++
      [⟨s.ownSubject, s.clock.round, .outboundFlushed (updatesIn s.outbound) (noticesIn s.outbound) s.headInFlight⟩])
  frame : t = { s with
    station := next, leavePending := false, openFailures := 0, windows := t.windows, copyRead := none
    receiver := if next = .configured then .off else s.receiver
    clock := t.clock, roster := t.roster, outbound := [], control := [], filler := t.filler, lastOpened := none
    account := none, resync := [], catchUp := none, serving := [], turn := none, notices := t.notices
    events := t.events, eventOverflow := t.eventOverflow }

/-! ## What the station takes from the line -/

/-- The COLD OPEN has been taken and no byte time has passed since: the instant of the quiet timer's expiry, at which an
OPEN's report may still be taken (R64, R86; log entry 28). -/
def State.coldStarting (s : State) : Prop :=
  s.station = .coldStart ∧ ∃ sent f, s.transmitter = some sent ∧ s.filler = some f ∧ sent.start = 0 ∧ f.count = 0

/-- The kind of the frame is OPEN. -/
def kindIsOpen (b : FrameBody) : Prop := ∃ digest cold leaving current, b = .opn digest cold leaving current

/-- The station takes the reception of a frame as the frame it is (R52, R53, R55, R86): it is on the line and drives
nothing, but that an OPEN may come together with the cold start; no discard run stands before the frame, and the frame is
not malformed. -/
def State.takes (s : State) (h : Header) (b : FrameBody) : Prop :=
  s.station.onLine = true ∧ (s.transmitter = none ∨ (kindIsOpen b ∧ s.coldStarting)) ∧ s.receiver ≠ .discarding ∧
    s.malformed h b = false

/-- After the report of a reception the receiver hunts, and a running quiet timer has started again (R52, R54, R64). -/
def State.heard (s : State) (p : Profile) : State :=
  { s with receiver := .hunting, clock := { s.clock with quiet := s.clock.quiet.map fun _ => p.quietLength } }

/-- A frame of this sender is taken under an open account (R74, R117). -/
def State.accounted (s : State) (h : Header) (a : Account) : Prop :=
  s.station.takesPart = true ∧ s.foreignSender h.sender = false ∧ s.account = some a ∧ a.sender = h.sender

/-- As `heard`, with the frame counted in the open account (R117). -/
def State.counted (s : State) (p : Profile) (a : Account) : State :=
  { s.heard p with account := some { a with frames := countUp a.frames } }

/-! ## The passing of time and of the round's instants -/

/-- The clock has come to an instant of the round, and the slot's count has moved on by the same distance, if any
(R60, R104; log entry 4). -/
def State.movedTo (s : State) (n : Nat) : State :=
  { s with
    clock := { s.clock with position := some n }
    filler := s.filler.map fun f => { f with count := f.count + (n - s.clock.position.getD n) } }

/-- The round length (R60). -/
def Profile.round (p : Profile) : Nat := p.settle + p.slots * p.slotLength + p.drain

/-- The commands of the happenings within the round whose instant is a position, each slot's end before the next one's
start (R62). -/
def Profile.rowsAt (p : Profile) (n : Nat) : List Instr :=
  ((List.range p.slots).map fun k =>
    (if n = p.settle + k * p.slotLength + p.slotLength then [Instr.slotEnd k] else []) ++
    (if n = p.settle + k * p.slotLength then [Instr.slotStart k] else []) ++
    (if n = p.settle + k * p.slotLength + 20 + p.grace then [Instr.openGraceExpiry k] else [])).flatten

/-- The commands have run one after the other, each answering a next state. -/
def Runs : List Instr → State → State → Prop
  | [], s, t => t = s
  | i :: rest, s, t => ∃ u, exec i s = .next u ∧ Runs rest u t

/-- The commands of one block's action on a round end (R62). -/
def State.taskRows (s : State) : RoundEndTask → List Instr
  | .misalignedTest => [.misalignedRoundTest, .syncLoss]
  | .silence => .rosterSilenceCheck :: s.roster.map fun r => .peerSilent r.station
  | .coldMarks => [.coldMarkReduction]
  | .resyncTimers => [.waitTimerExpiry, .stallTimerExpiry]
  | .offerLapse => [.offerLapse]

/-- The running timer of the catch-up record is reduced by one, while ACTIVE (R132). -/
def State.timersReduced (s : State) : State :=
  { s with catchUp :=
    if s.station = .active then s.catchUp.map fun c => { c with phase := match c.phase with
      | .requested wait => .requested (wait - 1)
      | .copying donor stall received => .copying donor (stall - 1) received }
    else s.catchUp }

/-- The blocks have acted on a round end in an order, each action as its commands have it, the timers of the catch-up record
reduced in the Resync Unit's own (R62, R70, R75, R33, R132, R148). -/
def ActsInOrder : List RoundEndTask → State → State → Prop
  | [], s, t => t = s
  | task :: rest, s, t =>
    ∃ u, Runs (s.taskRows task) (if task = .resyncTimers then s.timersReduced else s) u ∧ ActsInOrder rest u t

/-- An alignment has moved the position forward from q by a number of byte times: every happening passed over was raised,
in position order, the round end with the blocks' actions in an order (R67). -/
def Passes (p : Profile) (order : List RoundEndTask) : Nat → Nat → State → State → Prop
  | 0, _, s, t => t = s
  | d + 1, q, s, t =>
    ∃ u, Runs (p.rowsAt (q + 1)) { s with clock := { s.clock with position := some (q + 1) } } u ∧
      if q + 1 = p.round then
        ∃ v, ActsInOrder order
            { u with clock := { u.clock with
              position := some 0, round := u.clock.round + 1, endedRound := u.clock.round } } v ∧
          Passes p order d 0 v t
      else Passes p order d (q + 1) u t

/-! ## What the station sends -/

/-- The open account with one more corrupt reception, where the station takes part (R117). -/
def State.withCorrupt (s : State) : Option Account :=
  if s.station.takesPart = true then s.account.map fun a => { a with corrupt := countUp a.corrupt } else s.account

/-- The transmitter has taken a frame of the slot f at the slot's count; a reception in progress has ended as one corrupt
reception (R41, R42, R55, R104). -/
def State.sending (s : State) (p : Profile) (f : Filling) (b : FrameBody) (after : Filling) : State :=
  let base := if s.receiver = .receiving ∨ s.receiver = .discarding then { s.heard p with account := s.withCorrupt } else s
  { base with
    transmitter := some { frame := ⟨⟨p.station, BitVec.ofNat 8 f.slot, f.round⟩, b⟩, start := f.count }
    filler := some after }

/-- The frame has been driven to its last byte (R41, R55, R103, R104): the transmitter is IDLE, the receiver hunts while
the station is on the line, and the slot's count stands at the frame's end at least, the clock having moved on as far (log
entry 4); an abandoned slot is over. -/
def State.driven (s : State) (t : Sending) : State :=
  { s with
    transmitter := none
    receiver := if s.station.onLine = true then .hunting else .off
    clock := match s.filler with
      | none => s.clock
      | some f =>
        if f.step = .abandoned then s.clock
        else { s.clock with
          position := s.clock.position.map fun at' => at' + (t.start + 12 + bodyLength t.frame.body - f.count) }
    filler := match s.filler with
      | none => none
      | some f =>
        if f.step = .abandoned then none else some { f with count := max f.count (t.start + 12 + bodyLength t.frame.body) } }

/-- The Slot Filler is FILLING and its slot has not been abandoned (R80, R103). -/
def State.inSlot (s : State) (f : Filling) : Prop := s.filler = some f ∧ f.step ≠ .abandoned

/-- The Slot Filler is IDLE, or its slot has been abandoned (R80, R103). -/
def State.offSlot (s : State) : Prop := ∀ f, s.filler = some f → f.step = .abandoned

/-- The room test of R104 for a frame of n bytes with a copy reserve of k. -/
def roomFor (p : Profile) (f : Filling) (n k : Nat) : Prop := f.count + n + 22 + 90 * k ≤ p.slotLength

/-- The copy reserve: the lesser of the copy share and the blocks the SERVING records could still send (R107). -/
def State.reserve (s : State) (p : Profile) : Nat :=
  min p.copyShare (s.serving.map fun r => match r.phase with | .offered => 0 | .serving next => r.last + 1 - next).sum

/-- The CLOSE of the slot, with the three parts of its tally (R110). -/
def closing (f : Filling) : FrameBody := .close (BitVec.ofNat 8 f.updates) (BitVec.ofNat 8 f.frames) f.touched

/-- The OPEN of a slot (R105, R23): it has COLD in COLD_START alone, where its set is that of the held windows; else its set
is that of the CURRENT windows. -/
def State.isOpening (s : State) (p : Profile) (f : Filling) (b : FrameBody) : Prop :=
  ∃ current, b = .opn p.digest (decide (s.station = .coldStart)) f.leaving current ∧
    ∀ w, WindowSet.has current w = true ↔
      if s.station = .coldStart then (s.window w).holding ≠ none else (s.window w).currency = .current

/-- An own slot has been opened with this much of it gone by (R103, R105): its round and index are recorded, and its OPEN is
on the line, or stays with the Slot Filler while another frame is. -/
def State.OpensSlot (s t : State) (p : Profile) (k : Nat) (round : Half) (count : Nat) : Prop :=
  let f : Filling := { slot := k, round := round, leaving := decide (s.station = .leaving), count := count }
  let u : State := { s with lastOpened := some (round, k) }
  if s.transmitter = none then ∃ b, s.isOpening p f b ∧ t = u.sending p f b { f with step := .opened }
  else t = { u with filler := some f }

/-- The FENCE entries at the head of the queue have completed SENT, in queue order (R101). -/
def FencesDone (s t : State) : Prop :=
  ∃ (tags : List Half) (rest : List OutboundEntry),
    s.outbound = tags.map OutboundEntry.fence ++ rest ∧ (∀ tag, rest.head? ≠ some (.fence tag)) ∧
    Reports s t (tags.map fun tag => ⟨some tag, s.clock.round, .fenceDone false⟩) ∧
    t = { s with outbound := rest, events := t.events, eventOverflow := t.eventOverflow }

/-- The order in which the copy step looks for a SERVING record: from the record after the turn's on, wrapping, the turn's
own record last; with no turn, the serving list (R151). -/
def State.TurnOrder (s : State) (order : List ServingRecord) : Prop :=
  (s.turn = none ∧ order = s.serving) ∨
    ∃ before r after, s.serving = before ++ r :: after ∧ s.turn = some r.pair ∧ order = after ++ before ++ [r]

end Sys2Proof.Machine
end

