-- ==== Sys2Proof/Certificates/Slice0/Obligations.lean ====
section
/-! DEFINITION. Certificates/Slice0/Obligations.lean: the statements for the provers, one definition each.
A statement about a next state names every field that may differ from the state before; a field it does not name is as
before. What a host's command leaves in the command record is the model's choice throughout (log entry 1; `Answers`). -/

open Sys2Proof Sys2Proof.Machine

/-! ## The step, the resets, a byte time -/

/-- A step takes the command at the front of the queue and runs it on the state with the queue's rest. -/
def Obligations.StepTakesTheFrontCommand : Prop :=
  ∀ (c : Instr) (rest : List Instr) (s : State), step { s with pending := c :: rest } = exec c { s with pending := rest }

/-- With no command waiting, one byte time passes. While RUNNING the position rises by one, and the commands that come to
wait are those whose instant it now is, in the order of R62's table, the actions on a round end and the silences of the
peers included; while FREE and while RUNNING the protocol timers count down, and one that stands at 0 has its expiry wait
behind them; while STOPPED nothing is counted. The count of an own slot in progress rises by one, and nothing else changes
(R60 to R62, R64, R104). That a step on an empty queue is a byte time, and the order of what comes to wait at one instant,
are the model's choice (log entries 3 and 23). -/
def Obligations.EmptyQueueIsOneByteTime : Prop :=
  ∀ (s : State) (p : Profile), s.pending = [] → s.profile = some p →
    let counted : State := { s with filler := s.filler.map fun f => { f with count := f.count + 1 } }
    let down : Option Nat → Option Nat := fun timer => timer.map fun left => left - 1
    let expiries : List Instr :=
      (if s.clock.quiet = some 0 ∨ s.clock.quiet = some 1 then [.quietTimerExpiry] else []) ++
      (if s.clock.join = some 0 ∨ s.clock.join = some 1 then [.joinTimerExpiry] else []) ++
      (if s.clock.standoff = some 0 ∨ s.clock.standoff = some 1 then [.standoffTimerExpiry] else [])
    (s.station.clockMode = .stopped → step s = .next counted) ∧
    (s.station.clockMode = .free → step s = .next { counted with
      clock := { s.clock with
        quiet := down s.clock.quiet, join := down s.clock.join, standoff := down s.clock.standoff }
      pending := expiries }) ∧
    (∀ n, s.station.clockMode = .running → s.clock.position = some n → step s = .next { counted with
      clock := { s.clock with
        position := some (n + 1)
        quiet := down s.clock.quiet, join := down s.clock.join, standoff := down s.clock.standoff }
      pending := p.rowsAt (n + 1) ++
        (if n + 1 = p.round then
          [.roundEnd, .misalignedRoundTest, .syncLoss, .rosterSilenceCheck] ++
            (s.roster.map fun r => .peerSilent r.station) ++
            [.coldMarkReduction, .waitTimerExpiry, .stallTimerExpiry, .offerLapse]
        else []) ++ expiries })

/-- POWER_ON_RESET puts every block at its power-on value (R81, R5, R16, R41, R52, R61, R64, R159, R164, R165, R169); the
store keeps its bytes until the init pass zeroes them, and what waits keeps waiting (the model's choices, log entries 2 and
20); the values the manual does not give are those of log entry 21. -/
def Obligations.PowerOnResetGivesTheResetState : Prop :=
  (∀ s : State, exec .powerOnReset s = .next { State.reset with store := s.store, pending := s.pending }) ∧
    State.reset.station = .initialising ∧ State.reset.initPass = some 0 ∧ State.reset.profile = none ∧
    (∀ w, State.reset.window w = {}) ∧ State.reset.clock = {} ∧ State.reset.transmitter = none ∧
    State.reset.receiver = .off ∧ State.reset.roster = [] ∧ State.reset.outbound = [] ∧ State.reset.control = [] ∧
    State.reset.serving = [] ∧ State.reset.turn = none ∧ State.reset.resync = [] ∧ State.reset.catchUp = none ∧
    State.reset.account = none ∧ State.reset.filler = none ∧ State.reset.lastOpened = none ∧
    (∀ i : Fin 7, State.reset.notices.queue i = {}) ∧ State.reset.notices.threshold = 0 ∧ State.reset.events = [] ∧
    State.reset.eventOverflow = false ∧ State.reset.region = [] ∧ State.reset.completion = {} ∧
    State.reset.inFlight = none

/-- RESET_STATION outside INITIALISING puts every block at its reset value and the station in UNCONFIGURED, whatever it
was doing, a CONFIGURE in flight included; the store, the staging area and the command record are kept (R82, R15, R164,
R165). That an access in progress and the last bus response are kept is the model's choice (log entry 15), and so is that
the commands waiting are (log entry 20). -/
def Obligations.ResetStationGivesTheResetValues : Prop :=
  ∀ (s : State) (tag : Word), s.region.wf = true → s.station ≠ .initialising →
    ∃ t, exec (.resetStation tag) s = .next t ∧ Answers s t 4 [] tag .done [] ∧
      t = { State.reset with
            station := .unconfigured, initPass := none, store := s.store, region := t.region,
            completion := t.completion, hostClaim := s.hostClaim, busResponse := s.busResponse, pending := s.pending }

/-- INIT_PASS_STEP zeroes the store block the pass stands at and moves on; the step for store block 8191 ends the pass and
takes the station to UNCONFIGURED with a STATION_STATE event (R16, R81). -/
def Obligations.InitPassStepZeroesOneBlock : Prop :=
  ∀ (s : State) (b : Nat), s.initPass = some b → b ≤ 8191 → s.store.wf = true →
    ∃ t, exec .initPassStep s = .next t ∧
      (∀ a, t.store.read a = if b * 64 ≤ a ∧ a < b * 64 + 64 then 0 else s.store.read a) ∧
      (if b = 8191 then
        t.initPass = none ∧ t.station = .unconfigured ∧
          Reports s t [⟨s.ownSubject, s.clock.round, .stationState s.station .unconfigured .initDone 0⟩]
      else t.initPass = some (b + 1) ∧ t.station = s.station ∧ Reports s t []) ∧
      t = { s with store := t.store, initPass := t.initPass, station := t.station, events := t.events,
                   eventOverflow := t.eventOverflow }

/-! ## The host's data accesses -/

/-- A data access faults with the kind of the first check of R9 that fails, both when it is decided as it is taken and
when the arbiter grants its claim, where a claim taken on-line and granted off the line faults NOT_AVAILABLE before any
check: an error response and one HOST_FAULT event, and nothing else (R9, R11, R13). Which accesses are decided as they are
taken, and which at the grant, is inferred (log entry 15). -/
def Obligations.AccessFaultsAtItsFirstFailedCheck : Prop :=
  (∀ (s : State) (a : HostAccess) (k : AccessFault), firstFailed (accessChecks s a) = some k →
    s.hostClaim = none → (hostAccessOpen s = false ∨ (s.station.takesPart = true ∧ a.isWrite = true)) →
      ∃ t, exec (.hostDataAccess a.address a.lanes a.access) s = .next t ∧
        t.busResponse = some (if a.isWrite then .writeError else .readError) ∧
        Reports s t [⟨subjectOf a.windowField, s.clock.round, .hostFault k a.offset a.isWrite⟩] ∧
        t = { s with busResponse := t.busResponse, events := t.events, eventOverflow := t.eventOverflow }) ∧
    (∀ (s : State) (c : HostClaim) (k : AccessFault), firstFailed (claimChecks s c) = some k →
      s.hostClaim = some c → s.frameClaims = [] → s.copyRead = none →
      ∃ t, exec .hostStoreClaimGranted s = .next t ∧
        t.busResponse = some (if c.access.isWrite then .writeError else .readError) ∧
        Reports s t [⟨subjectOf c.access.windowField, s.clock.round, .hostFault k c.access.offset c.access.isWrite⟩] ∧
        t = { s with hostClaim := none, busResponse := t.busResponse, events := t.events,
                     eventOverflow := t.eventOverflow })

/-- An on-line write that passes its checks is taken into the Outbound Queue: over or behind the words of the tail entry
where it merges, or as a new entry at the tail; the store is not touched (R14, R98). -/
def Obligations.OnLineWriteIsQueued : Prop :=
  ∀ (s : State) (a : HostAccess) (w : WindowNo) (v : Word), a.access = .write v → a.window = some w →
    s.hostClaim = none → s.station = .active → firstFailed (accessChecks s a) = none →
    ∃ t, exec (.hostDataAccess a.address a.lanes a.access) s = .next t ∧ t.busResponse = some .writeDone ∧
      (match s.outbound.getLast? with
        | some (.update w' block first words isSealed) =>
          if isSealed = false ∧ w' = w ∧ block.toNat = a.block ∧ first.toNat ≤ a.word ∧
              a.word < first.toNat + words.length then
            t.outbound = s.outbound.dropLast ++ [.update w block first (words.set (a.word - first.toNat) v) false]
          else if isSealed = false ∧ w' = w ∧ block.toNat = a.block ∧ a.word = first.toNat + words.length then
            t.outbound = s.outbound.dropLast ++ [.update w block first (words ++ [v]) false]
          else t.outbound = s.outbound ++ [.update w (BitVec.ofNat 10 a.block) (BitVec.ofNat 4 a.word) [v] false]
        | _ => t.outbound = s.outbound ++ [.update w (BitVec.ofNat 10 a.block) (BitVec.ofNat 4 a.word) [v] false]) ∧
      t = { s with busResponse := some .writeDone, outbound := t.outbound }

/-- A read, and an off-line write, waits for the arbiter (R12, R13), and at the grant the word at the store block and word
of R12 is read, or off-line replaced by the 32 bits presented, while every other byte of the store stands. The claim keeps
whether it was taken on-line, for its checks at the grant (R13). The host's claim comes last: while a frame claim or a copy
read waits the grant changes nothing (R17, R18), and while an access is in progress the bus brings no other (R8). That a
word's four bytes stand high byte first in the store is inferred (log entry 16), and so are when an access is decided (log
entry 15) and that a grant with no claim changes nothing (log entry 6); that an access given behind one in progress changes
nothing is the model's choice (log entry 15). -/
def Obligations.AccessReachesTheStoreAtItsGrant : Prop :=
  (∀ (s : State) (a : HostAccess), s.hostClaim ≠ none → exec (.hostDataAccess a.address a.lanes a.access) s = .next s) ∧
  (∀ (s : State), s.hostClaim = none ∨ s.frameClaims ≠ [] ∨ s.copyRead ≠ none →
    exec .hostStoreClaimGranted s = .next s) ∧
  ∀ (s : State) (a : HostAccess) (block : Nat), s.store.wf = true →
    (s.hostClaim = none → hostAccessOpen s = true → (a.isWrite = true → s.station = .configured) →
      exec (.hostDataAccess a.address a.lanes a.access) s = .next { s with
        hostClaim := some ⟨a, s.station.takesPart⟩, busResponse := none }) ∧
    (∀ onLine, s.hostClaim = some ⟨a, onLine⟩ → s.frameClaims = [] → s.copyRead = none →
      firstFailed (claimChecks s ⟨a, onLine⟩) = none → (s.addressed a).storeBlock a.block = some block → block < 8192 →
      (a.access = .read → exec .hostStoreClaimGranted s = .next { s with
        hostClaim := none,
        busResponse := some (.readDone (wordOf (s.store.read (block * 64 + a.word * 4))
          (s.store.read (block * 64 + a.word * 4 + 1)) (s.store.read (block * 64 + a.word * 4 + 2))
          (s.store.read (block * 64 + a.word * 4 + 3)))) }) ∧
      (∀ v, a.access = .write v → s.station = .configured →
        ∃ t, exec .hostStoreClaimGranted s = .next t ∧ t.busResponse = some .writeDone ∧
          t.store.readWord (block * 64 + a.word * 4) = v ∧
          (∀ b, b < block * 64 + a.word * 4 ∨ block * 64 + a.word * 4 + 4 ≤ b → t.store.read b = s.store.read b) ∧
          t = { s with hostClaim := none, busResponse := t.busResponse, store := t.store }))

/-! ## Frame claims and the store -/

/-- A frame claim writes its words and sets the window's written flag: an update's words, in order, from its first word
on, with WINDOW_CHANGED where a peer's update sets a watched window's flag; a copied block's 16 words, with no event
(R19, R20, R6, R39). Frame claims are granted in line order, so neither kind overtakes the other: a grant that is not for the
claim at the head changes nothing (R18, R20, R127). That a grant without its claim changes nothing is inferred (log entry
6). -/
def Obligations.FrameClaimsWriteTheStore : Prop :=
  (∀ (s : State) (peer : Option StationNo) (w : WindowNo) (block first : Nat) (words : List Word)
      (rest : List FrameClaim), s.frameClaims = .update peer w block first words :: rest → block < 8192 →
      first + words.length ≤ 16 → s.store.wf = true →
      ∃ t, exec .updateApplied s = .next t ∧
        (∀ i, i < words.length → t.store.readWord (block * 64 + (first + i) * 4) = words.getD i 0) ∧
        (∀ b, b < block * 64 + first * 4 ∨ block * 64 + (first + words.length) * 4 ≤ b → t.store.read b = s.store.read b) ∧
        t.window w = { s.window w with written := true } ∧ (∀ v, v ≠ w → t.window v = s.window v) ∧
        Reports s t (match peer with
          | some sender =>
            if (s.window w).watch = true ∧ (s.window w).written = false then
              [⟨subjectOf w.val, s.clock.round, .windowChanged sender⟩]
            else []
          | none => []) ∧
        t = { s with frameClaims := rest, store := t.store, windows := t.windows, events := t.events,
                     eventOverflow := t.eventOverflow }) ∧
    (∀ (s : State) (w : WindowNo) (block : Nat) (words : List Word) (rest : List FrameClaim),
      s.frameClaims = .copied w block words :: rest → block < 8192 → words.length = 16 → s.store.wf = true →
      ∃ t, exec .copiedBlockWritten s = .next t ∧
        (∀ i, i < 16 → t.store.readWord (block * 64 + i * 4) = words.getD i 0) ∧
        (∀ b, b < block * 64 ∨ block * 64 + 64 ≤ b → t.store.read b = s.store.read b) ∧
        t.window w = { s.window w with written := true } ∧ (∀ v, v ≠ w → t.window v = s.window v) ∧
        t = { s with frameClaims := rest, store := t.store, windows := t.windows }) ∧
    (∀ (s : State), (match s.frameClaims with
      | [] => exec .updateApplied s = .next s ∧ exec .copiedBlockWritten s = .next s
      | .update _ _ _ _ _ :: _ => exec .copiedBlockWritten s = .next s
      | .copied _ _ _ :: _ => exec .updateApplied s = .next s))

/-- The store changes by its four kinds of claim alone (R15): a command that leaves another store than it found is
UPDATE_APPLIED, COPIED_BLOCK_WRITTEN or INIT_PASS_STEP, or the grant of a host's write while the station is not on the
line. -/
def Obligations.StoreChangesByClaimsAlone : Prop :=
  ∀ (i : Instr) (s t : State), exec i s = .next t → t.store ≠ s.store →
    i = .updateApplied ∨ i = .copiedBlockWritten ∨ i = .initPassStep ∨
      (i = .hostStoreClaimGranted ∧ s.station = .configured ∧ ∃ c, s.hostClaim = some c ∧ c.access.isWrite = true)

/-! ## The control region and the issue of a command -/

/-- A write to the staging area or the command record changes the bytes of its enabled lanes and no other; the byte at the
word's lowest offset is its most significant byte, and a write above the issue word is ignored (R164, R172). That byte lane
i is the byte at offset i of the word is inferred (log entry 16). -/
def Obligations.ControlRegionWriteChangesEnabledLanes : Prop :=
  ∀ (s : State) (word : BitVec 8) (lanes : Lanes) (v : Word), s.region.wf = true →
    (4 * word.toNat < 0x220 → ∃ t, exec (.controlRegionWrite word lanes v) s = .next t ∧
      (∀ i, i < 4 → t.region.read (4 * word.toNat + i) =
        if laneEnabled lanes i = true then wordByte v i else s.region.read (4 * word.toNat + i)) ∧
      (∀ a, a < 4 * word.toNat ∨ 4 * word.toNat + 4 ≤ a → t.region.read a = s.region.read a) ∧
      t = { s with region := t.region }) ∧
    (0x220 < 4 * word.toNat → exec (.controlRegionWrite word lanes v) s = .next s)

/-- A write to the issue word, whatever value and lanes it carries, is the command that the command record holds: what a
command row does with a record that already holds its code, operands and tag (R164, R165). -/
def Obligations.IssueWordRunsTheRecordedCommand : Prop :=
  ∀ (i : Instr) (code : Nat) (operands : List Word) (tag : Word) (s : State) (lanes : Lanes) (v : Word),
    commandRow i = some (code, operands, tag) → s.region.wf = true → s.commandCode = BitVec.ofNat 32 code →
    s.commandTag = tag → (∀ k w, operands[k]? = some w → s.operand k = w) →
    exec (.controlRegionWrite 0x88 lanes v) s = exec i s

/-- In INITIALISING every command completes BUSY, and while a CONFIGURE is in flight every command but RESET_STATION does;
past that gate a code outside 1 to 16 completes BAD_OPERAND, given by the row BAD_COMMAND_CODE or found in the command record
by a write to the issue word, whatever value and lanes it carries; neither changes anything (R164, R165, R81, R83). -/
def Obligations.GateAndCodeRefuseCommands : Prop :=
  (∀ (i : Instr) (s : State), commandRow i ≠ none → s.region.wf = true →
    (s.station = .initialising ∨ (s.inFlight ≠ none ∧ ∀ tag, i ≠ .resetStation tag)) → OnlyCompletes i s .busy []) ∧
  (∀ (code tag : Word) (s : State), code.toNat = 0 ∨ 16 < code.toNat → s.region.wf = true →
    ∃ t, exec (.badCommandCode code tag) s = .next t ∧ t.region = (s.fillCommand code.toNat [] tag).region ∧
      t.completion.status = (if s.station = .initialising ∨ s.inFlight ≠ none then .busy else .badOperand) ∧
      (code.toNat < 256 → t.completion.code = code.setWidth 8) ∧ t.completion.tag = tag ∧
      t.completion.count = s.completion.count + 1 ∧ t.completion.result = Vector.replicate 16 0 ∧
      t = { s with region := t.region, completion := t.completion }) ∧
  (∀ (s : State) (lanes : Lanes) (v : Word), s.commandCode.toNat = 0 ∨ 16 < s.commandCode.toNat →
    ∃ t, exec (.controlRegionWrite 0x88 lanes v) s = .next t ∧
      t.completion.status = (if s.station = .initialising ∨ s.inFlight ≠ none then .busy else .badOperand) ∧
      (s.commandCode.toNat < 256 → t.completion.code = s.commandCode.setWidth 8) ∧ t.completion.tag = s.commandTag ∧
      t.completion.count = s.completion.count + 1 ∧ t.completion.result = Vector.replicate 16 0 ∧
      t = { s with completion := t.completion })

/-! ## CONFIGURE -/

/-- CONFIGURE is taken in UNCONFIGURED and CONFIGURED, and refused BAD_STATE past the gate elsewhere: a copy of the staging
area is in flight, and the completion record stands. It completes PROFILE_ERROR with the kind and the index of the
first check that fails, in the order of R166, R58 and R3, and then changes nothing else (R83, R166). -/
def Obligations.ConfigureRefusesAnUnsoundProfile : Prop :=
  (∀ (s : State) (tag : Word), s.region.wf = true → s.station ≠ .initialising → s.inFlight = none →
      (s.station = .unconfigured ∨ s.station = .configured →
        ∃ c, exec (.configure tag) s =
            .next { s with region := (s.fillCommand 1 [] tag).region, inFlight := some c } ∧
          c.tag = tag ∧ ∀ a, c.staged.read a = if a < 0x200 then s.region.read a else 0) ∧
      (s.station ≠ .unconfigured → s.station ≠ .configured → OnlyCompletes (.configure tag) s .badState [])) ∧
    (∀ (s : State) (c : ConfigureInFlight) (kind : ProfileErrorKind) (index : Nat), s.inFlight = some c →
      firstFailure (profileChecks (readRawProfile c.staged)) = some (kind, index) →
      exec .configureComplete s = .next { s with
        inFlight := none
        completion := { status := .profileError, code := 1, tag := c.tag, count := s.completion.count + 1,
                        result := resultOfWords [BitVec.ofNat 32 kind.code, BitVec.ofNat 32 index] } })

/-- A profile that passes every check is installed as a whole: its parameters, its digest, one record per window entry,
and nothing left of an older one; the station is CONFIGURED, and the changes are reported (R83, R166, R4, R57). -/
def Obligations.ConfigureInstallsTheProfile : Prop :=
  ∀ (s : State) (c : ConfigureInFlight) (raw : RawProfile), s.inFlight = some c → raw = readRawProfile c.staged →
    firstFailure (profileChecks raw) = none → (s.station = .unconfigured ∨ s.station = .configured) →
    ∃ (p : Profile) (t : State), exec .configureComplete s = .next t ∧ t.profile = some p ∧
      (p.station.toNat = raw.station ∧ p.slots = raw.slots ∧ p.slotLength = raw.slotLength ∧ p.settle = raw.settle ∧
        p.drain = raw.drain ∧ p.grace = raw.grace ∧ p.copyShare = raw.copyShare ∧ p.catchUpWait = raw.catchUpWait ∧
        p.copyStall = raw.copyStall ∧ p.attemptLimit = raw.attemptLimit ∧ p.silenceLimit = raw.silenceLimit ∧
        p.allotment = raw.allotment) ∧
      p.digest = crc16 ([byteOf raw.slots] ++ halfOf raw.slotLength ++ halfOf raw.settle ++ halfOf raw.drain ++
        raw.allotment ++ (raw.windows.map fun r => halfOf r.globalLength).flatten) ∧
      (∀ w : WindowNo, t.window w = installedRecord (readRawWindow c.staged w.val)) ∧ t.station = .configured ∧
      Reports s t
        ((if s.station = .unconfigured then
            [⟨t.ownSubject, s.clock.round, .stationState .unconfigured .configured .configure 0⟩]
          else []) ++
          (allWindows.filter fun w => (s.window w).currency != (t.window w).currency).map fun w =>
            ⟨subjectOf w.val, s.clock.round,
              .windowState (s.window w).currency (t.window w).currency .configure 0 none⟩) ∧
      t.completion = { status := .done, code := 1, tag := c.tag, count := s.completion.count + 1,
                       result := resultOfWords [BitVec.setWidth 32 p.digest] } ∧
      t = { s with profile := t.profile, windows := t.windows, station := t.station, inFlight := none, resync := [],
                   catchUp := none, serving := [], turn := none, events := t.events,
                   eventOverflow := t.eventOverflow, completion := t.completion }

/-! ## JOIN and LEAVE -/

/-- JOIN takes a CONFIGURED station to LISTENING with a fresh Roster and both of its timers running; in the other states it
completes as R84's table gives and changes nothing (R84, R71, R64). -/
def Obligations.JoinActsByState : Prop :=
  ∀ (s : State) (tag : Word), s.region.wf = true → s.station ≠ .initialising → s.inFlight = none →
    (∀ p, s.station = .configured → s.profile = some p →
      ∃ t, Completes (.join tag) s t .done [] ∧
        Reports s t [⟨s.ownSubject, s.clock.round, .stationState .configured .listening .join 0⟩] ∧
        t = { s with
              station := .listening, receiver := .hunting, roster := p.peers.map fun peer => { station := peer }
              clock := { s.clock with
                quiet := some (p.settle + p.slots * p.slotLength + p.drain + 256 * p.station.toNat)
                join := some (8 * (p.settle + p.slots * p.slotLength + p.drain))
                standoff := none, foreignMark := false }
              region := t.region, completion := t.completion, events := t.events,
              eventOverflow := t.eventOverflow }) ∧
    (s.station = .listening ∨ s.station = .coldStart ∨ s.station = .active ∨ s.station = .standoff →
      OnlyCompletes (.join tag) s .done []) ∧
    (s.station = .unconfigured ∨ s.station = .leaving ∨ s.station = .muted → OnlyCompletes (.join tag) s .badState [])

/-- LEAVE in ACTIVE: LEAVING, the catch-up record dropped with its window STALE, the resync list emptied, every serving
record ended, its CABT queued behind the CCAN and every CBEG unqueued behind the CABTs, and every cold mark removed; no
window loses its standing besides (R93, R35, R33, R156). -/
def Obligations.LeaveInActiveStopsCatchUp : Prop :=
  ∀ (s : State) (tag : Word), s.region.wf = true → s.station = .active → s.inFlight = none →
    ∃ t, Completes (.leave tag) s t .done [] ∧
      (∀ w, t.window w = { s.window w with
        coldMark := none
        currency := if s.catchUp.map CatchUp.window = some w then .stale else (s.window w).currency }) ∧
      t.control = afterLeave
        (match s.catchUp with
          | none => s.control
          | some { window := w, attempt := n, phase := .requested _, .. } => s.control.erase ((s.window w).creq w n)
          | some { window := w, phase := .copying donor _ _, .. } => queued s.control (.ccan donor w)) s.serving ∧
      (∀ r ∈ s.serving, s.copyRead = some r.pair → t.copyRead = none ∧ t.filler = s.filler.map Filling.stopCopy) ∧
      ((∀ r ∈ s.serving, s.copyRead ≠ some r.pair) → t.copyRead = s.copyRead ∧ t.filler = s.filler) ∧
      Reports s t (⟨s.ownSubject, s.clock.round, .stationState .active .leaving .leave 0⟩ ::
        match s.catchUp with
        | none => []
        | some c => [⟨subjectOf c.window.val, s.clock.round,
            .windowState (s.window c.window).currency .stale .leave (s.window c.window).attempts none⟩]) ∧
      t = { s with
            station := .leaving, windows := t.windows, catchUp := none, resync := [], serving := [], turn := none
            control := t.control, copyRead := t.copyRead, filler := t.filler, region := t.region
            completion := t.completion, events := t.events, eventOverflow := t.eventOverflow }

/-- LEAVE outside ACTIVE: CONFIGURED at once from LISTENING, STANDOFF and MUTED; pending in COLD_START; DONE with no change
in LEAVING; BAD_STATE in UNCONFIGURED and CONFIGURED (R95). That the foreign mark stands where the timers stop is inferred (log
entry 18). -/
def Obligations.LeaveElsewhereActsByState : Prop :=
  ∀ (s : State) (tag : Word), s.region.wf = true → s.inFlight = none →
    (s.station = .listening ∨ s.station = .standoff ∨ s.station = .muted →
      ∃ t, Completes (.leave tag) s t .done [] ∧
        Reports s t [⟨s.ownSubject, s.clock.round, .stationState s.station .configured .leave 0⟩] ∧
        t = { s with
              station := .configured, roster := [], receiver := .off
              clock := { s.clock with quiet := none, join := none, standoff := none }
              region := t.region, completion := t.completion, events := t.events,
              eventOverflow := t.eventOverflow }) ∧
    (s.station = .coldStart → ∃ t, Completes (.leave tag) s t .done [] ∧
      t = { s with leavePending := true, region := t.region, completion := t.completion }) ∧
    (s.station = .leaving → OnlyCompletes (.leave tag) s .done []) ∧
    (s.station = .unconfigured ∨ s.station = .configured → OnlyCompletes (.leave tag) s .badState [])

/-! ## The commands on a window -/

/-- DECLARE makes a held window CURRENT with attempt count 0 and no cold mark, by its currency; an attempt on another
window may then begin. Outside ACTIVE it is refused BAD_STATE, and for a window that is not held BAD_OPERAND
(R37, R129). The command record's bytes are the model's choice (log entry 1), and so is that the test of R129 waits while a
departure of the Roster's examination is due (log entry 8). -/
def Obligations.DeclareMakesTheWindowCurrent : Prop :=
  ∀ (s : State) (window tag : Word), s.region.wf = true → s.inFlight = none → s.Sound →
    (s.station ≠ .initialising → s.station ≠ .active → OnlyCompletes (.declare window tag) s .badState []) ∧
    (s.station = .active → 32 ≤ window.toNat → OnlyCompletes (.declare window tag) s .badOperand []) ∧
    (∀ w : WindowNo, s.station = .active → window.toNat = w.val →
      ((s.window w).holding = none → OnlyCompletes (.declare window tag) s .badOperand []) ∧
      ((s.window w).currency = .current → OnlyCompletes (.declare window tag) s .done []) ∧
      ((s.window w).holding ≠ none → (s.window w).currency ≠ .current →
        ∃ u v t, Completes (.declare window tag) s t .done [] ∧
          t = { v with region := t.region, completion := t.completion } ∧ AttemptTested u v ∧
          u.window w = { s.window w with currency := .current, attempts := 0, coldMark := none } ∧
          (∀ x, x ≠ w → u.window x = s.window x) ∧
          (match (s.window w).currency, s.catchUp with
            | .catchingUp, some { attempt := n, phase := .requested _, .. } =>
              u.catchUp = none ∧ u.resync = s.resync ∧ u.control = s.control.erase ((s.window w).creq w n)
            | .catchingUp, some { phase := .copying donor _ _, .. } =>
              u.catchUp = none ∧ u.resync = s.resync ∧ u.control = queued s.control (.ccan donor w)
            | _, _ => u.catchUp = s.catchUp ∧ u.resync = s.resync.erase w ∧ u.control = s.control) ∧
          Reports s u [⟨subjectOf w.val, s.clock.round,
            .windowState (s.window w).currency .current .declare 0 none⟩] ∧
          u = { s with windows := u.windows, catchUp := u.catchUp, resync := u.resync, control := u.control,
                       events := u.events, eventOverflow := u.eventOverflow }))

/-- RESYNC makes a CURRENT or STRANDED window STALE with attempt count 0 at the tail of the resync list, and ends the
serving records of the window; an attempt may then begin. It is refused as DECLARE is, and changes nothing for a
STALE or CATCHING_UP window (R38, R154, R129). The command record's bytes are the model's choice (log entry 1), and so is that
the test of R129 waits while a departure of the Roster's examination is due (log entry 8). -/
def Obligations.ResyncListsTheWindow : Prop :=
  ∀ (s : State) (window tag : Word), s.region.wf = true → s.inFlight = none → s.Sound →
    (s.station ≠ .initialising → s.station ≠ .active → OnlyCompletes (.resync window tag) s .badState []) ∧
    (s.station = .active → 32 ≤ window.toNat → OnlyCompletes (.resync window tag) s .badOperand []) ∧
    (∀ w : WindowNo, s.station = .active → window.toNat = w.val →
      ((s.window w).holding = none → OnlyCompletes (.resync window tag) s .badOperand []) ∧
      ((s.window w).currency = .stale ∨ (s.window w).currency = .catchingUp →
        OnlyCompletes (.resync window tag) s .done []) ∧
      ((s.window w).currency = .current ∨ (s.window w).currency = .stranded →
        ∃ u v t, Completes (.resync window tag) s t .done [] ∧
          t = { v with region := t.region, completion := t.completion } ∧ AttemptTested u v ∧
          u.window w = { s.window w with currency := .stale, attempts := 0, coldMark := none } ∧
          (∀ x, x ≠ w → u.window x = s.window x) ∧ u.resync = s.resync ++ [w] ∧
          RecordsEnded (fun r => r.window = w) true s u ∧
          Reports s u [⟨subjectOf w.val, s.clock.round, .windowState (s.window w).currency .stale .resync 0 none⟩] ∧
          u = { s with windows := u.windows, resync := u.resync, control := u.control, copyRead := u.copyRead,
                       filler := u.filler, serving := u.serving, turn := u.turn, events := u.events,
                       eventOverflow := u.eventOverflow }))

/-- WATCH turns the watch flag of a held window on or off, and CLEAR_WRITTEN clears the written flag of any window, in every
state past the gate but UNCONFIGURED; what they refuse is BAD_STATE or BAD_OPERAND (R6, R7). -/
def Obligations.WatchAndClearWrittenSetTheFlags : Prop :=
  ∀ (s : State) (window setting tag : Word), s.region.wf = true → s.station ≠ .initialising → s.inFlight = none →
    (s.station = .unconfigured → OnlyCompletes (.watch window setting tag) s .badState [] ∧
      OnlyCompletes (.clearWritten window tag) s .badState []) ∧
    (s.station ≠ .unconfigured → 32 ≤ window.toNat → OnlyCompletes (.watch window setting tag) s .badOperand [] ∧
      OnlyCompletes (.clearWritten window tag) s .badOperand []) ∧
    (∀ w : WindowNo, s.station ≠ .unconfigured → window.toNat = w.val →
      ((s.window w).holding = none ∨ 1 < setting.toNat →
        OnlyCompletes (.watch window setting tag) s .badOperand []) ∧
      ((s.window w).holding ≠ none → setting.toNat ≤ 1 →
        ∃ t, Completes (.watch window setting tag) s t .done [] ∧
          t = { s with windows := s.windows.set w { s.window w with watch := decide (setting.toNat = 1) }
                       region := t.region, completion := t.completion }) ∧
      ∃ t, Completes (.clearWritten window tag) s t .done [] ∧
        t = { s with windows := s.windows.set w { s.window w with written := false }
                     region := t.region, completion := t.completion })

/-! ## Notices, fences, events, status -/

/-- SEND_NOTICE puts a NOTICE entry at the tail of the Outbound Queue while the station is ACTIVE (R100). -/
def Obligations.SendNoticeQueuesAnEntry : Prop :=
  ∀ (s : State) (target level noticeTag tag : Word), s.region.wf = true → s.station ≠ .initialising →
    s.inFlight = none →
    if s.station ≠ .active then OnlyCompletes (.sendNotice target level noticeTag tag) s .badState []
    else if (63 < target.toNat ∧ target.toNat ≠ 255) ∨ level.toNat < 1 ∨ 7 < level.toNat ∨ 65535 < noticeTag.toNat then
      OnlyCompletes (.sendNotice target level noticeTag tag) s .badOperand []
    else if 64 ≤ s.outbound.length then OnlyCompletes (.sendNotice target level noticeTag tag) s .queueFull []
    else ∃ t, Completes (.sendNotice target level noticeTag tag) s t .done [] ∧
      t = { s with
            outbound := s.outbound ++
              [.notice (BitVec.ofNat 8 target.toNat) (BitVec.ofNat 3 level.toNat) (BitVec.ofNat 16 noticeTag.toNat)]
            region := t.region, completion := t.completion }

/-- FENCE puts a FENCE entry at the tail of the Outbound Queue while the station is ACTIVE or LEAVING; one that finds the
queue empty completes at once with FENCE_DONE (R101). -/
def Obligations.FenceQueuesOrCompletes : Prop :=
  ∀ (s : State) (fenceTag tag : Word), s.region.wf = true → s.station ≠ .initialising → s.inFlight = none →
    s.WithinLimits →
    if s.station ≠ .active ∧ s.station ≠ .leaving then OnlyCompletes (.fence fenceTag tag) s .badState []
    else if 65535 < fenceTag.toNat then OnlyCompletes (.fence fenceTag tag) s .badOperand []
    else if s.outbound.length = 64 then OnlyCompletes (.fence fenceTag tag) s .queueFull []
    else ∃ t, Completes (.fence fenceTag tag) s t .done [] ∧
      (if s.outbound = [] then
        t.outbound = [] ∧ Reports s t [⟨some (BitVec.ofNat 16 fenceTag.toNat), s.clock.round, .fenceDone false⟩]
      else t.outbound = s.outbound ++ [.fence (BitVec.ofNat 16 fenceTag.toNat)] ∧ Reports s t []) ∧
      t = { s with outbound := t.outbound, region := t.region, completion := t.completion, events := t.events,
                   eventOverflow := t.eventOverflow }

/-- TAKE_NOTICE removes and returns the oldest notice of the highest level that holds any, with that level's overrun mark,
which it clears; SET_THRESHOLD sets the threshold, and the NOTICE line stands while a notice above the threshold waits
(R161 to R163). -/
def Obligations.NoticeCommandsServeTheHost : Prop :=
  ∀ (s : State) (threshold tag : Word), s.region.wf = true → s.station ≠ .initialising → s.inFlight = none →
    ((∀ i : Fin 7, (s.notices.queue i).notices = []) → OnlyCompletes (.takeNotice tag) s .empty []) ∧
    (∀ (i : Fin 7) (n : Notice) (rest : List Notice), (s.notices.queue i).notices = n :: rest →
      (∀ j : Fin 7, i < j → (s.notices.queue j).notices = []) →
      ∃ t, Completes (.takeNotice tag) s t .done
          ([n.sender, byteOf n.level.toNat, flagByte (s.notices.queue i).overrun, byteOf rest.length] ++
            bytesOfHalf n.tag ++ bytesOfHalf n.round) ∧
        t.notices.queue i = { notices := rest, overrun := false } ∧
        (∀ j, j ≠ i → t.notices.queue j = s.notices.queue j) ∧ t.notices.threshold = s.notices.threshold ∧
        t = { s with notices := t.notices, region := t.region, completion := t.completion }) ∧
    (7 < threshold.toNat → OnlyCompletes (.setThreshold threshold tag) s .badOperand []) ∧
    (threshold.toNat ≤ 7 → ∃ t, Completes (.setThreshold threshold tag) s t .done [] ∧
      (t.noticeLine = true ↔ ∃ i : Fin 7, (s.notices.queue i).notices ≠ [] ∧ threshold.toNat < i.val + 1) ∧
      t = { s with notices := { s.notices with threshold := threshold.toNat }, region := t.region,
                   completion := t.completion })

/-- TAKE_EVENT removes the record at the head of the event queue and returns it with the overflow mark, then clears the
overflow flag; on an empty queue it completes NONE and changes nothing. The record's 16 bytes are its kind, its marks, its
subject, its round and its detail, field by field as R174 lays out every kind (R170, R174); where R174 gives no value for an
absent detail, FFh is inferred (log entry 17). -/
def Obligations.TakeEventReturnsTheOldest : Prop :=
  ∀ (s : State) (tag : Word), s.region.wf = true → s.station ≠ .initialising → s.inFlight = none →
    (s.events = [] → OnlyCompletes (.takeEvent tag) s .empty []) ∧
    (∀ e rest, s.events = e :: rest →
      ∃ t, Completes (.takeEvent tag) s t .done
          ([(kindAndDetail e.detail).1,
            BitVec.ofNat 8 ((if s.eventOverflow = true then 1 else 0) + if e.subject = none then 2 else 0)] ++
            twoBytesOr e.subject ++ twoBytes e.round.toNat ++ (kindAndDetail e.detail).2) ∧
        (t.eventLine = true ↔ rest ≠ []) ∧
        t = { s with events := rest, eventOverflow := false, region := t.region, completion := t.completion })

/-- Events of one happening join the tail of the event queue in their order while it holds fewer than 32; the rest are
dropped and set the overflow flag, which stays set; the EVENT line stands while a record is held (R169). -/
def Obligations.EventQueueKeepsTheFirstThirtyTwo : Prop :=
  ∀ (s : State) (events : List Event), s.events.length ≤ 32 →
    (s.reported events).events = (s.events ++ events).take 32 ∧
      ((s.reported events).eventOverflow = true ↔ s.eventOverflow = true ∨ 32 < s.events.length + events.length) ∧
      ((s.reported events).eventLine = true ↔ s.events ++ events ≠ [])

/-- WINDOW_STATUS, ROSTER_STATUS and STATION_STATUS return what the state holds, in the bytes of R174, and change nothing;
what they refuse is BAD_STATE or BAD_OPERAND, and an index beyond the records is NONE. A read of the control region returns
the bytes of the staging area and the command record, the completion record and the five status words, in every state, and
0 elsewhere (R164, R165, R167, R168, R171, R174). That the issue word reads 0 is the model's choice (log entry 26); the
values of absent fields, where R174 gives none, are inferred (log entry 17). -/
def Obligations.StatusCommandsReadTheState : Prop :=
  (∀ (s : State) (offset : Nat), offset % 4 = 0 →
    (offset < 0x220 → s.controlRead offset = wordOf (s.region.read offset) (s.region.read (offset + 1))
      (s.region.read (offset + 2)) (s.region.read (offset + 3))) ∧
    (offset = 0x240 → ∃ high low, twoBytes s.completion.count.toNat = [high, low] ∧
      s.controlRead offset = wordOf (tableByte completionStatuses s.completion.status) s.completion.code high low) ∧
    (offset = 0x244 → s.controlRead offset = s.completion.tag) ∧
    (∀ i : Fin 16, offset = 0x248 + 4 * i.val → s.controlRead offset = s.completion.result[i]) ∧
    (offset = 0x300 → s.controlRead offset = match s.profile with
      | none => wordOf (tableByte stationStates s.station) (truthByte s.inFlight.isSome) 0xFF 0xFF
      | some p => wordOf (tableByte stationStates s.station) (truthByte s.inFlight.isSome) 0 p.station) ∧
    (offset = 0x304 → s.controlRead offset = BitVec.ofNat 32 s.clock.round.toNat) ∧
    (offset = 0x308 → s.controlRead offset = BitVec.ofNat 32 (64 - s.outbound.length)) ∧
    (offset = 0x30C → s.controlRead offset =
      wordOf 0 0 (truthByte s.eventOverflow) (BitVec.ofNat 8 s.events.length)) ∧
    (offset = 0x310 → (∀ i : Fin 7, (s.notices.queue i).notices ≠ [] →
        (∀ j : Fin 7, i < j → (s.notices.queue j).notices = []) → s.controlRead offset = BitVec.ofNat 32 (i.val + 1)) ∧
      ((∀ i : Fin 7, (s.notices.queue i).notices = []) → s.controlRead offset = 0)) ∧
    ((0x220 ≤ offset ∧ offset < 0x240) ∨ (0x288 ≤ offset ∧ offset < 0x300) ∨ 0x314 ≤ offset →
      s.controlRead offset = 0)) ∧
  ∀ (s : State) (operand tag : Word), s.region.wf = true → s.station ≠ .initialising → s.inFlight = none →
    (s.station = .unconfigured → OnlyCompletes (.windowStatus operand tag) s .badState []) ∧
    (s.station ≠ .unconfigured → 32 ≤ operand.toNat → OnlyCompletes (.windowStatus operand tag) s .badOperand []) ∧
    (∀ w : WindowNo, s.station ≠ .unconfigured → operand.toNat = w.val →
      OnlyCompletes (.windowStatus operand tag) s .done
        (halfOf (s.window w).globalLength ++ [byteOf (s.window w).accessCode] ++
          (match (s.window w).holding with
            | none => [0, 0, 0, 0, 0]
            | some h => [byteOf h.direction.code] ++ halfOf h.count ++ halfOf h.base) ++
          [byteOf (s.window w).currency.code, byteOf (s.window w).attempts, flagByte (s.window w).written,
            flagByte (s.window w).watch, byteOf ((s.window w).coldMark.getD 0),
            byteOf (if w ∈ s.resync then s.resync.idxOf w + 1 else 0)] ++
          (match s.catchUp with
            | none => [0xFF, 0xFF, 0xFF, 0xFF, 0xFF]
            | some c =>
              if c.window = w then
                [byteOf c.attempt] ++ (match c.phase with
                  | .requested _ => [0, 0xFF, 0, 0]
                  | .copying donor _ received => [1, donor] ++ halfOf received.length)
              else [0xFF, 0xFF, 0xFF, 0xFF, 0xFF]))) ∧
    (30 < operand.toNat → OnlyCompletes (.rosterStatus operand tag) s .badOperand []) ∧
    (operand.toNat ≤ 30 → s.roster.length ≤ operand.toNat →
      OnlyCompletes (.rosterStatus operand tag) s .empty [byteOf s.roster.length]) ∧
    (∀ r, operand.toNat ≤ 30 → s.roster[operand.toNat]? = some r →
      OnlyCompletes (.rosterStatus operand tag) s .done
        ([byteOf s.roster.length, r.station, byteOf r.state.code, byteOf r.silent] ++ halfOrAbsent r.lastHeard ++
          [flagByte r.leaving, 0] ++ bytesOfWord r.current)) ∧
    OnlyCompletes (.stationStatus tag) s .done
      ([byteOf s.station.code, byteOrAbsent (s.profile.map Profile.station)] ++
        halfOrAbsent (s.profile.map Profile.digest) ++ bytesOfHalf s.clock.round ++
        [byteOf s.resync.length, byteOrAbsent (s.catchUp.map fun c => byteOf c.window.val), byteOf s.control.length,
          byteOf s.outbound.length, byteOf s.serving.length, 0] ++
        (s.serving.map fun r =>
          [r.joiner, byteOf r.window.val] ++ halfOf r.first ++ halfOf r.last ++
            (match r.phase with
              | .offered => [0, 0, 0xFF, 0xFF]
              | .serving next => [1, 0] ++ halfOf next) ++ bytesOfHalf r.beginRound).flatten)

/-! ## The receiver -/

/-- LEAD_FOUND, DISCARD_RUN_START and CORRUPT_RECEPTION move the receiver as R52 gives; a corrupt reception, and a discard
run that a lead ends, is line activity and counts in the open account. Nothing is taken off the line or while a frame is
driven, but for an OPEN at the instant of the cold start (R86), and a malformed frame is a corrupt reception. While the
station takes no part in the line, a frame other than OPEN is line activity alone, and in STANDOFF and MUTED an OPEN is
(R52 to R55, R64, R68, R117). That a reception row stands for the whole reception, so that one found in DISCARDING is the
row behind its LEAD_FOUND, is the model's choice (log entry 7), and the instant of the cold start is inferred (log entry
28). -/
def Obligations.ReceiverFollowsTheLine : Prop :=
  (∀ (s : State) (p : Profile), s.profile = some p →
      (s.station.onLine = true → s.transmitter = none →
        exec .discardRunStart s = .next { s with receiver := .discarding } ∧
        exec .corruptReception s = .next { s.heard p with account := s.withCorrupt } ∧
        exec .leadFound s = .next
          (if s.receiver = .discarding then { s.heard p with account := s.withCorrupt, receiver := .receiving }
          else { s with receiver := .receiving })) ∧
      (s.station.onLine = false ∨ s.transmitter ≠ none →
        exec .discardRunStart s = .next s ∧ exec .corruptReception s = .next s ∧ exec .leadFound s = .next s)) ∧
    (∀ (f : Frame) (instant : Nat) (order : List RoundEndTask) (s t : State), exec .leadFound s = .next t →
      (s.station.onLine = false ∨ s.transmitter ≠ none → ¬ (kindIsOpen f.body ∧ s.coldStarting) →
        exec (receptionRow f instant order) s = .next s) ∧
      (s.receiver = .discarding → s.transmitter = none →
        exec (receptionRow f instant order) s = exec (receptionRow f instant order) t) ∧
      (s.station.onLine = true → s.transmitter = none → s.receiver ≠ .discarding → s.malformed f.header f.body = true →
        exec (receptionRow f instant order) s = exec .corruptReception s)) ∧
    (∀ (f : Frame) (instant : Nat) (order : List RoundEndTask) (s : State) (p : Profile), s.profile = some p →
      s.takes f.header f.body →
      (s.station.takesPart = false ∧ ¬ kindIsOpen f.body) ∨ s.station = .standoff ∨ s.station = .muted →
      exec (receptionRow f instant order) s = .next (s.heard p))

/-! ## Receptions: OPEN -/

/-- In LISTENING, an OPEN of the same line takes the station to ACTIVE in the sender's round, with every held window
listed, the sender PRESENT and its account open, and an attempt may begin; an OPEN with LEAVING is passed over
(R63, R68, R72, R73, R85, R31, R116, R129). That the test of R129 waits while a departure of the Roster's examination is due is
the model's choice (log entry 8). -/
def Obligations.OpenInListeningJoinsTheLine : Prop :=
  ∀ (s : State) (p : Profile) (h : Header) (cold leaving : Bool) (current : WindowSet) (instant : Nat)
    (order : List RoundEndTask) (r : RosterRecord),
    s.Sound → s.profile = some p → s.station = .listening → s.takes h (.opn p.digest cold leaving current) →
    h.slotIndex.toNat < p.slots → p.allotment[h.slotIndex.toNat]? = some h.sender → s.rosterOf h.sender = some r →
    (leaving = true → exec (.openReceived h p.digest cold leaving current instant order) s = .next { s.heard p with
      roster := rosterWith s.roster h.sender fun q => { q with
        state := if q.state = .foreign then .absent else q.state
        current := s.readCurrentSet current, leaving := true } }) ∧
    (leaving = false → ∃ u t, exec (.openReceived h p.digest cold leaving current instant order) s = .next t ∧
      AttemptTested u t ∧
      Reports s u (⟨s.ownSubject, h.round, .stationState .listening .active .matchingOpen h.sender.toNat⟩ ::
        if r.state = .present then []
        else [⟨subjectOf h.sender.toNat, h.round, .peerArrived h.slotIndex cold⟩]) ∧
      u = { s with
        station := .active, receiver := .hunting, openFailures := 0
        clock := { s.clock with
          position := some (p.settle + h.slotIndex.toNat * p.slotLength + 20), round := h.round
          misalignedCount := 0, onTimeMark := true, misalignedMark := false, syncLoss := false
          quiet := none, join := none, standoff := none, foreignMark := false }
        roster := rosterWith s.roster h.sender fun q => { q with
          state := .present, silent := 0, lastHeard := some h.round, current := s.readCurrentSet current
          leaving := false }
        resync := allWindows.filter fun w => (s.window w).isHeld
        account := some { sender := h.sender, slot := h.slotIndex, leaving := false }
        events := u.events, eventOverflow := u.eventOverflow })

/-- An OPEN of another line, judged so by its digest, its slot index or its sender, makes its sender FOREIGN, with a
departure if it was PRESENT; it ends an open account and opens none, and in LISTENING it sets the foreign mark
(R65, R74, R64, R116). That the clock comes to the OPEN's instant is the model's choice (log entry 4); that the departure is
taken before the account's ending is inferred (log entry 10), and so are that the sender of a LEAVING account becomes ABSENT
at its ending though it is FOREIGN (log entry 18) and how the instant of the cold start is told (log entry 28); that the test
of R129 waits while a departure of the Roster's examination is due is the model's choice (log entry 8). -/
def Obligations.ForeignOpenIsShunned : Prop :=
  ∀ (s : State) (p : Profile) (h : Header) (digest : Half) (cold leaving : Bool) (current : WindowSet) (instant : Nat)
    (order : List RoundEndTask), s.Sound → s.profile = some p →
    (s.station = .listening ∨ s.station.clockMode = .running) → s.takes h (.opn digest cold leaving current) →
    (digest ≠ p.digest ∨ p.slots ≤ h.slotIndex.toNat ∨ p.allotment[h.slotIndex.toNat]? ≠ some h.sender) →
    ∃ u v w t, exec (.openReceived h digest cold leaving current instant order) s = .next t ∧
      u = (if s.station = .listening then
          { s.heard p with clock := { (s.heard p).clock with foreignMark := true } }
        else (s.heard p).movedTo (instant % p.round)) ∧
      Departed h.sender .foreign .foreign u v ∧
      (match s.account with
        | none => w = v
        | some a => EndedUnclosed a .nextOpen v w) ∧
      AttemptTested w t

/-- An OPEN that ends within the open grace of the nearest occurrence of its expected end puts the position there and takes
the sender's round. Moving forward raises every happening passed over, in position order, a round end included, with the
blocks' actions on it in the order of the command's operand; moving backward raises nothing. The cold contest is judged,
the sender is PRESENT, an open account ends and the sender's opens, and an attempt may begin (R62, R66, R67, R69, R70, R72,
R89, R116, R129). That the clock first comes to the OPEN's instant, the slot's count with it, is the model's choice (log
entry 4); so is that the order of the actions is an operand (log entry 9) and that of the silent peers (log entry 23); that
the Roster acts before the Apply Unit is inferred (log entry 10), and so is how the instant of the cold start is told (log
entry 28). That the test of R129, at the end and behind each happening passed over, waits while a departure of the Roster's
examination is due, and comes behind the last, is the model's choice (log entry 8), and so is that a sync loss may wait for its
row, a state that is left out here. -/
def Obligations.OpenInStepAlignsTheClock : Prop :=
  ∀ (s : State) (p : Profile) (h : Header) (cold leaving : Bool) (current : WindowSet) (instant k : Nat)
    (order : List RoundEndTask),
    s.Sound → s.clock.syncLoss = false → s.profile = some p → s.station.clockMode = .running →
    s.takes h (.opn p.digest cold leaving current) → h.slotIndex.toNat = k → k < p.slots →
    p.allotment[k]? = some h.sender → s.rosterOf h.sender ≠ none → p.grace + 20 < p.slotLength →
    2 * p.grace < p.round →
    let here := instant % p.round
    let expected := p.settle + k * p.slotLength + 20
    let base : State :=
      { (s.heard p).movedTo here with clock := { ((s.heard p).movedTo here).clock with onTimeMark := true } }
    let heardAt : State → Prop := fun m =>
      ∃ r u v w x t, exec (.openReceived h p.digest cold leaving current instant order) s = .next t ∧
      m.rosterOf h.sender = some r ∧
      u = { m with clock := { m.clock with position := some expected, round := h.round, onTimeMark := true } } ∧
      (if s.station = .active ∧ (∃ n, (m.window n).coldMark ≠ none) ∧ cold = true ∧
          h.sender.toNat < p.station.toNat then Yielded h.sender false u v
        else v = u) ∧
      Reports v w (if r.state = .present then []
        else [⟨subjectOf h.sender.toNat, h.round, .peerArrived h.slotIndex cold⟩]) ∧
      w = { v with
        roster := rosterWith v.roster h.sender fun q => { q with
          state := .present, silent := 0, lastHeard := some h.round, current := s.readCurrentSet current
          leaving := leaving }
        events := w.events, eventOverflow := w.eventOverflow } ∧
      (match m.account with
        | none => x = w
        | some a => EndedUnclosed a .nextOpen w x) ∧
      AttemptTested
        (if s.station.takesPart = true then
          { x with account := some { sender := h.sender, slot := h.slotIndex, leaving := leaving } }
        else x) t
    (∀ forward, (here + forward = expected ∨ here + forward = expected + p.round) → forward ≤ p.grace →
      ∃ full m, full.Nodup ∧ (∀ task, task ∈ full) ∧ (order.Nodup → (∀ task, task ∈ order) → full = order) ∧
        Passes p full forward here base m ∧ heardAt m) ∧
    (∀ backward, here = expected + backward → backward ≤ p.grace →
      heardAt { base with clock := { base.clock with position := some expected } })

/-- An OPEN of the same line that ends outside the open grace leaves the clock where it is and marks the round; the cold
contest is judged, the sender's set is taken but not its presence, an open account ends and the sender's opens, and an
attempt may begin (R66, R69, R70, R73, R89, R116, R129). That the clock comes to the OPEN's instant, the slot's count with
it, is the model's choice (log entry 4), and so is that the test of R129 waits while a departure of the Roster's examination
is due (log entry 8); that the Roster acts before the Apply Unit is inferred (log entry 10), and so is how the instant of the
cold start is told (log entry 28). -/
def Obligations.OpenOutOfStepLeavesTheClock : Prop :=
  ∀ (s : State) (p : Profile) (h : Header) (cold leaving : Bool) (current : WindowSet) (instant : Nat)
    (order : List RoundEndTask),
    s.Sound → s.profile = some p → s.station.clockMode = .running →
    s.takes h (.opn p.digest cold leaving current) → h.slotIndex.toNat < p.slots →
    p.allotment[h.slotIndex.toNat]? = some h.sender →
    (∀ j : Int, (p.grace : Int) < |p.settle + h.slotIndex.toNat * p.slotLength + 20 + j * p.round -
      (instant % p.round : Nat)|) →
    ∃ u v w x t, exec (.openReceived h p.digest cold leaving current instant order) s = .next t ∧
      u = { (s.heard p).movedTo (instant % p.round) with
        clock := { ((s.heard p).movedTo (instant % p.round)).clock with misalignedMark := true } } ∧
      (if s.station = .active ∧ (∃ n, (s.window n).coldMark ≠ none) ∧ cold = true ∧
          h.sender.toNat < p.station.toNat then Yielded h.sender true u v
        else v = u) ∧
      w = { v with roster := rosterWith v.roster h.sender fun q => { q with
        state := if q.state = .foreign then .absent else q.state
        current := s.readCurrentSet current, leaving := leaving } } ∧
      (match s.account with
        | none => x = w
        | some a => EndedUnclosed a .nextOpen w x) ∧
      AttemptTested
        (if s.station.takesPart = true then
          { x with account := some { sender := h.sender, slot := h.slotIndex, leaving := leaving } }
        else x) t

/-! ## Receptions: CLOSE, UPD, NTC -/

/-- A CLOSE is compared with the account it ends, or with an account of zeros where its sender has none open, by the rows
of R121; the held notices are delivered after the losses, and a sender that was LEAVING departs; a FOREIGN sender's
CLOSE is ignored (R117, R121, R122, R125, R76, R129). That the test of R129 waits while a departure of the Roster's examination
is due is the model's choice (log entry 8). -/
def Obligations.CloseIsCheckedAgainstItsAccount : Prop :=
  ∀ (s : State) (p : Profile) (h : Header) (updates frames : Byte) (touched : WindowSet),
    s.Sound → s.profile = some p → s.station.takesPart = true → s.takes h (.close updates frames touched) →
    (s.foreignSender h.sender = true → exec (.closeReceived h updates frames touched) s = .next (s.heard p)) ∧
    (∀ a, s.accounted h a → ∃ u v w t, exec (.closeReceived h updates frames touched) s = .next t ∧
      u = { s.heard p with account := none } ∧
      (if updates.toNat < a.updates ∨ frames.toNat < a.frames ∨
          ∃ n, WindowSet.has a.windows n = true ∧ WindowSet.has touched n = false then
        ∃ v', Reports u v' [⟨subjectOf h.sender.toNat, s.clock.round,
            .slotLoss .inconsistent a.slot none a.frames a.updates (some (frames, updates)) a.corrupt⟩] ∧
          v' = { u with events := v'.events, eventOverflow := v'.eventOverflow } ∧
          LossesTaken (fun n => WindowSet.has touched n || WindowSet.has a.windows n) v' v
      else if a.updates < updates.toNat then LossesTaken (fun n => WindowSet.has touched n) u v
      else
        Reports u v (if a.frames < frames.toNat then [⟨subjectOf h.sender.toNat, s.clock.round,
            .slotLoss .framesShort a.slot none a.frames a.updates (some (frames, updates)) a.corrupt⟩] else []) ∧
          v = { u with events := v.events, eventOverflow := v.eventOverflow }) ∧
      AccountFinished a v w ∧ AttemptTested w t) ∧
    (s.foreignSender h.sender = false → (∀ a, s.account = some a → a.sender ≠ h.sender) →
      ∃ v t, exec (.closeReceived h updates frames touched) s = .next t ∧
        (if 0 < updates.toNat then LossesTaken (fun n => WindowSet.has touched n) (s.heard p) v
        else
          Reports s v (if 0 < frames.toNat then [⟨subjectOf h.sender.toNat, s.clock.round,
              .slotLoss .unopened h.slotIndex none 0 0 (some (frames, updates)) 0⟩] else []) ∧
            v = { s.heard p with events := v.events, eventOverflow := v.eventOverflow }) ∧
        AttemptTested v t)

/-- An UPD under its sender's account is counted, and becomes a frame claim where the window is CURRENT or CATCHING_UP and
holds the block; without an account it is discarded with a loss, behind which an attempt may begin; a FOREIGN sender's is
ignored (R117 to R119, R19, R22, R129). That the test of R129 waits while a departure of the Roster's examination is due is the
model's choice (log entry 8). -/
def Obligations.UpdateIsClaimedOrLost : Prop :=
  ∀ (s : State) (p : Profile) (h : Header) (w : WindowNo) (first : BitVec 4) (block : BitVec 10) (words : List Word),
    s.Sound → s.profile = some p → s.station.takesPart = true → s.takes h (.upd w first block words) →
    (s.foreignSender h.sender = true → exec (.updReceived h w first block words) s = .next (s.heard p)) ∧
    (∀ a, s.accounted h a → exec (.updReceived h w first block words) s = .next { s.heard p with
      account := some { a with
        frames := countUp a.frames, updates := countUp a.updates, windows := WindowSet.add a.windows w }
      frameClaims := s.frameClaims ++
        if (s.window w).currency = .current ∨ (s.window w).currency = .catchingUp then
          match (s.window w).storeBlock block.toNat with
          | none => []
          | some b => [.update (some h.sender) w b first.toNat words]
        else [] }) ∧
    (s.foreignSender h.sender = false → (∀ a, s.account = some a → a.sender ≠ h.sender) →
      ∃ v t, exec (.updReceived h w first block words) s = .next t ∧
        LossesTaken (fun n => decide (n = w)) (s.heard p) v ∧ AttemptTested v t)

/-- An NTC for this station under its sender's account is delivered to its level at once while no corrupt reception is
counted, or else held in the account, which holds at most 253; a level holds 4, and a notice that finds 4 sets the overrun
flag; an NTC for another station is counted alone (R115, R117, R125, R160). That a notice beyond the 253 is dropped is the
model's choice (log entry 27). -/
def Obligations.NoticeIsDeliveredOrHeld : Prop :=
  ∀ (s : State) (p : Profile) (h : Header) (target : Byte) (level : BitVec 3) (tag : Half) (a : Account) (i : Fin 7),
    s.profile = some p → s.takes h (.ntc target level tag) → s.accounted h a → level.toNat = i.val + 1 →
    (target ≠ p.station → target ≠ 255 → exec (.ntcReceived h target level tag) s = .next (s.counted p a)) ∧
    (target = p.station ∨ target = 255 →
      ∃ t, exec (.ntcReceived h target level tag) s = .next t ∧
        if a.corrupt = 0 then
          t.notices.queue i =
            (if (s.notices.queue i).notices.length < 4 then { s.notices.queue i with
              notices := (s.notices.queue i).notices ++ [⟨h.sender, level, tag, s.clock.round⟩] }
            else { s.notices.queue i with overrun := true }) ∧
          (∀ j, j ≠ i → t.notices.queue j = s.notices.queue j) ∧ t.notices.threshold = s.notices.threshold ∧
          t = { s.counted p a with notices := t.notices }
        else t = { s.heard p with account := some { a with
          frames := countUp a.frames
          held := if a.held.length < 253 then a.held ++ [⟨h.sender, level, tag, s.clock.round⟩] else a.held } })

/-! ## Receptions: the frames of catch-up -/

/-- A frame of catch-up, or an NTC, whose sender is FOREIGN or has no account open is dropped and counted nowhere; one that
names another station, but for a CBEG, is counted alone (R117, R126). -/
def Obligations.FramesForOthersAreCountedAlone : Prop :=
  ∀ (s : State) (p : Profile) (f : Frame) (instant : Nat) (order : List RoundEndTask),
    s.profile = some p → s.station.takesPart = true → s.takes f.header f.body →
    (match f.body with
      | .opn _ _ _ _ | .close _ _ _ | .upd _ _ _ _ => False
      | .ntc _ _ _ | .creq _ _ _ _ | .cbeg _ _ _ _ | .cblk _ _ _ _ | .cend _ _ _ | .ccan _ _ | .cabt _ _ => True) →
    (s.foreignSender f.header.sender = true ∨ (∀ a, s.account = some a → a.sender ≠ f.header.sender) →
      exec (receptionRow f instant order) s = .next (s.heard p)) ∧
    (∀ a, s.accounted f.header a →
      (match f.body with
        | .cblk joiner _ _ _ | .cend joiner _ _ | .cabt joiner _ => joiner ≠ p.station
        | .ccan donor _ => donor ≠ p.station
        | .opn _ _ _ _ | .close _ _ _ | .upd _ _ _ _ | .ntc _ _ _ | .creq _ _ _ _ | .cbeg _ _ _ _ => False) →
      exec (receptionRow f instant order) s = .next (s.counted p a))

/-- A CREQ is answered with an OFFERED record at the tail and a queued CBEG where the conditions of R146 hold and fewer
than 4 records are left once the pair's older record has ended; it is ignored otherwise (R146, R126). -/
def Obligations.RequestIsOfferedOrIgnored : Prop :=
  ∀ (s : State) (p : Profile) (h : Header) (w : WindowNo) (attempt : BitVec 3) (first last : BitVec 10) (a : Account),
    s.Sound → s.profile = some p → s.takes h (.creq w attempt first last) → s.accounted h a →
    if s.station = .active ∧ 0 < p.copyShare ∧ (s.window w).currency = .current ∧
        (s.window w).inExtent first.toNat = true ∧ (s.window w).inExtent last.toNat = true then
      ∃ u, RecordsEnded (fun r => decide (r.joiner = h.sender ∧ r.window = w)) false (s.counted p a) u ∧
        u = { s.counted p a with control := u.control, copyRead := u.copyRead, filler := u.filler,
                                 serving := u.serving, turn := u.turn } ∧
        exec (.creqReceived h w attempt first last) s = .next
          (if u.serving.length < 4 then
            { u with
              serving := u.serving ++ [{ joiner := h.sender, window := w, first := first.toNat, last := last.toNat,
                                         phase := .offered, beginRound := s.clock.round }]
              control := queued u.control (.cbeg h.sender w first last) }
          else u)
    else exec (.creqReceived h w attempt first last) s = .next (s.counted p a)

/-- A CCAN naming this station ends the record of its sender and window, and another station's CBEG ends the OFFERED record
of its joiner and window; no CABT is queued for either (R149, R150). -/
def Obligations.OffersEndOnWordFromTheLine : Prop :=
  ∀ (s : State) (p : Profile) (h : Header) (joiner : StationNo) (w : WindowNo) (first last : BitVec 10) (a : Account),
    s.Sound → s.profile = some p → s.accounted h a →
    (s.takes h (.ccan p.station w) → ∃ t, exec (.ccanReceived h p.station w) s = .next t ∧
      RecordsEnded (fun r => decide (r.joiner = h.sender ∧ r.window = w)) false (s.counted p a) t ∧
      t = { s.counted p a with control := t.control, copyRead := t.copyRead, filler := t.filler, serving := t.serving,
                               turn := t.turn }) ∧
    (s.takes h (.cbeg joiner w first last) → joiner ≠ p.station →
      ∃ t, exec (.cbegReceived h joiner w first last) s = .next t ∧
        RecordsEnded (fun r => decide (r.joiner = joiner ∧ r.window = w ∧ r.phase = .offered)) false
          (s.counted p a) t ∧
        t = { s.counted p a with control := t.control, copyRead := t.copyRead, filler := t.filler,
                                 serving := t.serving, turn := t.turn })

/-- A CBEG that names this station as joiner makes its sender the donor, starts the donor's copy again, or is answered as a
stray's, by the table of R133; a stray is told to stop with a CCAN, once in an attempt (R133, R135). -/
def Obligations.CopyBeginsWithTheFirstDonor : Prop :=
  ∀ (s : State) (p : Profile) (h : Header) (w : WindowNo) (first last : BitVec 10) (a : Account),
    s.profile = some p → s.takes h (.cbeg p.station w first last) → s.accounted h a →
    exec (.cbegReceived h p.station w first last) s = .next
      (match s.catchUp with
        | none => { s.counted p a with control := queued s.control (.ccan h.sender w) }
        | some c =>
          let stray : State :=
            if h.sender ∈ c.cancelled then s.counted p a
            else { s.counted p a with catchUp := some { c with cancelled := c.cancelled ++ [h.sender] }
                                      control := queued s.control (.ccan h.sender w) }
          if c.window = w then
            match c.phase with
            | .requested _ =>
              if h.sender ∈ c.cancelled then s.counted p a
              else { s.counted p a with catchUp := some { c with phase := .copying h.sender p.copyStall [] } }
            | .copying donor _ _ =>
              if donor = h.sender then
                { s.counted p a with catchUp := some { c with phase := .copying donor p.copyStall [] } }
              else stray
          else stray)

/-- A CBLK from the donor for a held block of the record's window becomes a frame claim, joins the received set and starts
the stall timer again; for another block it does nothing; from any other sender, or for another window, it is a stray's,
and with no record it is ignored (R134, R135, R20). That one which was the donor of an attempt its departure failed is a
stray like any other in REQUESTED is inferred (log entry 25). -/
def Obligations.CopiedBlockIsAdmittedFromTheDonor : Prop :=
  ∀ (s : State) (p : Profile) (h : Header) (w : WindowNo) (block : BitVec 10) (words : List Word) (a : Account),
    s.profile = some p → s.takes h (.cblk p.station w block words) → s.accounted h a →
    exec (.cblkReceived h p.station w block words) s = .next
      (match s.catchUp with
        | none => s.counted p a
        | some c =>
          let stray : State :=
            if h.sender ∈ c.cancelled then s.counted p a
            else { s.counted p a with catchUp := some { c with cancelled := c.cancelled ++ [h.sender] }
                                      control := queued s.control (.ccan h.sender w) }
          match c.phase with
          | .requested _ => stray
          | .copying donor _ received =>
            if c.window = w ∧ donor = h.sender then
              match (s.window w).storeBlock block.toNat with
              | none => s.counted p a
              | some b =>
                let blocks := if block.toNat ∈ received then received else received ++ [block.toNat]
                { s.counted p a with
                  frameClaims := s.frameClaims ++ [.copied w b words]
                  catchUp := some { c with phase := .copying donor p.copyStall blocks } }
            else stray)

/-- The donor's CEND makes the window CURRENT where every held block has been received, and fails the attempt INCOMPLETE
otherwise; the donor's CABT fails it DONOR_ABORTED; from any other sender, for another window, in REQUESTED and with no
record, both are ignored (R136, R137, R142, R29, R129). That the test of R129 waits while a departure of the Roster's
examination is due is the model's choice (log entry 8). -/
def Obligations.CopyEndsOnTheDonorsWord : Prop :=
  ∀ (s : State) (p : Profile) (h : Header) (w : WindowNo) (count : Half) (a : Account),
    s.Sound → s.profile = some p → s.accounted h a →
    (∀ (c : CatchUp) (stall : Nat) (received : List Nat), s.catchUp = some c → c.window = w →
      c.phase = .copying h.sender stall received →
      (s.takes h (.cend p.station w count) → ∃ u t, exec (.cendReceived h p.station w count) s = .next t ∧
        AttemptTested u t ∧
        if ∀ i, i < (s.window w).heldCount → (s.window w).firstHeld + i ∈ received then
          Reports s u [⟨subjectOf w.val, s.clock.round, .windowState .catchingUp .current .catchUpDone 0 none⟩,
            ⟨subjectOf w.val, s.clock.round, .catchUpDone h.sender (s.window w).heldCount c.attempt⟩] ∧
          u = { s.counted p a with
                catchUp := none, events := u.events, eventOverflow := u.eventOverflow
                windows := s.windows.set w { s.window w with currency := .current, attempts := 0, coldMark := none } }
        else AttemptFailed .incomplete (s.counted p a) u) ∧
      (s.takes h (.cabt p.station w) → ∃ u t, exec (.cabtReceived h p.station w) s = .next t ∧
        AttemptFailed .donorAborted (s.counted p a) u ∧ AttemptTested u t)) ∧
    ((∀ c stall received, s.catchUp = some c → c.window = w → c.phase ≠ .copying h.sender stall received) →
      (s.takes h (.cend p.station w count) → exec (.cendReceived h p.station w count) s = .next (s.counted p a)) ∧
      (s.takes h (.cabt p.station w) → exec (.cabtReceived h p.station w) s = .next (s.counted p a)))

/-! ## Readbacks -/

/-- The readback of the own OPEN in ACTIVE or LEAVING: an intact one clears the failure count and ends an open account as
any OPEN does, and the slot goes on; the first corrupt one is reported, and the slot goes on; the second takes the
station to STANDOFF. After the slot was abandoned the readback of an OPEN, a COLD one included, acts on nothing
(R90, R112, R116, R123, R129, R80, R103). That a readback brings the clock's position and the slot's count to the frame's end
is the model's choice (log entry 4), and so is that the test of R129 waits while a departure of the Roster's examination is due
(log entry 8). That an account of a LEAVING peer, open as the station comes off the line, is not reported to the Roster is
inferred (log entry 22), and so is that the foreign mark stands where the timers stop (log entry 18). -/
def Obligations.OwnOpenReadbackKeepsTheLine : Prop :=
  ∀ (s : State) (p : Profile) (f : Filling) (sent : Sending) (digest : Half) (cold leaving : Bool) (current : WindowSet),
    s.profile = some p → s.transmitter = some sent → sent.frame.body = .opn digest cold leaving current →
    (s.offSlot → ∀ intact, exec (.openReadback intact) s = .next (s.driven sent)) ∧
    (s.Sound → s.station.takesPart = true → s.inSlot f →
    let goOn : State → State := fun x =>
      { x with filler := x.filler.map fun g => if g.step = .opened then { g with step := .control } else g }
    (∃ v t, exec (.openReadback true) s = .next t ∧
      (match s.account with
        | none => v = { s.driven sent with openFailures := 0 }
        | some a => EndedUnclosed a .nextOpen { s.driven sent with openFailures := 0 } v) ∧
      AttemptTested (goOn v) t) ∧
    (s.openFailures = 0 → ∃ t, exec (.openReadback false) s = .next t ∧
      Reports s t [⟨s.ownSubject, sent.frame.header.round, .ownFrameLost sent.frame.header.slotIndex .opn⟩] ∧
      t = { goOn (s.driven sent) with openFailures := 1, events := t.events, eventOverflow := t.eventOverflow }) ∧
    (s.openFailures ≠ 0 → ∃ t, exec (.openReadback false) s = .next t ∧
      CameOff p .standoff .openLost (s.driven sent) t))

/-- The readback of the COLD OPEN: intact, the station is ACTIVE by cold start, every held window CURRENT with attempt
count 0 and a cold mark of 4, and the slot goes on; corrupt, the station is in STANDOFF; with a LEAVE pending, the CLOSE
follows at once (R88, R32, R92, R95, R114). That a readback brings the clock's position and the slot's count to the frame's
end is the model's choice (log entry 4); that the foreign mark stands where the timers stop is inferred (log entry 18). -/
def Obligations.ColdOpenReadbackStartsTheLine : Prop :=
  ∀ (s : State) (p : Profile) (f : Filling) (sent : Sending) (digest : Half) (cold leaving : Bool) (current : WindowSet),
    s.profile = some p → s.station = .coldStart → s.inSlot f → f.step = .opened → s.transmitter = some sent →
    sent.frame.body = .opn digest cold leaving current →
    let counted : Filling := { f with count := max f.count (sent.start + 20) }
    (s.leavePending = true → ∀ intact, exec (.openReadback intact) s =
      .next ((s.driven sent).sending p counted (closing f) { counted with step := .closing })) ∧
    (s.leavePending = false → ∃ t, exec (.openReadback true) s = .next t ∧
      (∀ w, t.window w = if (s.window w).holding = none then s.window w
        else { s.window w with currency := .current, attempts := 0, coldMark := some 4 }) ∧
      Reports s t (⟨s.ownSubject, s.clock.round, .stationState .coldStart .active .coldOpenIntact 0⟩ ::
        (allWindows.filter fun w => (s.window w).holding.isSome).map fun w =>
          ⟨subjectOf w.val, s.clock.round, .windowState (s.window w).currency .current .coldStart 0 none⟩) ∧
      t = { s.driven sent with
            station := .active, openFailures := 0, windows := t.windows
            filler := some { counted with step := .control }
            events := t.events, eventOverflow := t.eventOverflow }) ∧
    (s.leavePending = false → ∃ t, exec (.openReadback false) s = .next t ∧
      Reports s t [⟨s.ownSubject, s.clock.round, .stationState .coldStart .standoff .coldOpenLost 0⟩] ∧
      t = { s.driven sent with
            station := .standoff, filler := none, lastOpened := none
            clock := { s.clock with
              position := none, misalignedCount := 0, onTimeMark := false, misalignedMark := false, syncLoss := false
              quiet := none, join := none
              standoff := some ((1 + p.station.toNat % 16) * (p.settle + p.slots * p.slotLength + p.drain)) }
            events := t.events, eventOverflow := t.eventOverflow })

/-- The readback of an own UPD or NTC removes the head of the Outbound Queue. An intact UPD becomes a frame claim of the
station's own; a corrupt one is reported and is a loss against its window, and a corrupt NTC is reported; FENCE entries
at the head then complete (R108, R111, R112, R101, R19). After the slot was abandoned it acts on nothing (R80, R103). That
the events of the FENCE entries stand behind those of the loss is inferred (log entry 11); that a readback brings the clock's
position and the slot's count to the frame's end is the model's choice (log entry 4), and so is that the test of R129 behind
an UPD's waits while a departure of the Roster's examination is due (log entry 8). -/
def Obligations.OutboundReadbackSettlesTheEntry : Prop :=
  ∀ (s : State) (sent : Sending), s.Sound → s.transmitter = some sent →
    (∀ w first block words, sent.frame.body = .upd w first block words →
      (s.offSlot →
        ∀ intact, exec (.updReadback intact) s = .next (s.driven sent)) ∧
      (∀ f intact, s.inSlot f → ∃ u v t, exec (.updReadback intact) s = .next t ∧
        (if intact = true then
          u = { s.driven sent with
                outbound := s.outbound.tail
                frameClaims := s.frameClaims ++
                  if (s.window w).currency = .current ∨ (s.window w).currency = .catchingUp then
                    match (s.window w).storeBlock block.toNat with
                    | none => []
                    | some b => [.update none w b first.toNat words]
                  else [] }
        else ∃ u', Reports s u' [⟨s.ownSubject, sent.frame.header.round,
            .ownFrameLost sent.frame.header.slotIndex (.upd w block first words.length)⟩] ∧
          u' = { s.driven sent with
                 outbound := s.outbound.tail, events := u'.events, eventOverflow := u'.eventOverflow } ∧
          LossesTaken (fun n => decide (n = w)) u' u) ∧
        FencesDone u v ∧ AttemptTested v t)) ∧
    (∀ target level tag, sent.frame.body = .ntc target level tag →
      (s.offSlot →
        ∀ intact, exec (.ntcReadback intact) s = .next (s.driven sent)) ∧
      (∀ f intact, s.inSlot f → ∃ u t, exec (.ntcReadback intact) s = .next t ∧
        Reports s u (if intact = true then [] else [⟨s.ownSubject, sent.frame.header.round,
          .ownFrameLost sent.frame.header.slotIndex (.ntc target level tag)⟩]) ∧
        u = { s.driven sent with
              outbound := s.outbound.tail, events := u.events, eventOverflow := u.eventOverflow } ∧
        FencesDone u t))

/-- The readback of an own frame of catch-up, intact or corrupt: a CREQ's starts the wait timer of its attempt again, a
CBEG's makes its OFFERED record SERVING at its first block unless its own CBEG is still queued, and the others act on
nothing (R106, R131, R147, R152). That a readback brings the clock's position and the slot's count to the frame's end is the
model's choice (log entry 4). -/
def Obligations.CatchUpReadbackActsByKind : Prop :=
  ∀ (s : State) (p : Profile) (sent : Sending) (intact : Bool), s.profile = some p → s.transmitter = some sent →
    (∀ w attempt first last, sent.frame.body = .creq w attempt first last → exec (.creqReadback intact) s = .next
      { s.driven sent with catchUp := s.catchUp.map fun c =>
          match c.phase with
          | .requested _ =>
            if c.window = w ∧ c.attempt = attempt.toNat then { c with phase := .requested p.catchUpWait } else c
          | .copying _ _ _ => c }) ∧
    (∀ joiner w first last, sent.frame.body = .cbeg joiner w first last → exec (.cbegReadback intact) s = .next
      { s.driven sent with
        serving := s.serving.map fun r =>
          if r.joiner = joiner ∧ r.window = w ∧ r.phase = .offered ∧
              .cbeg r.joiner r.window (BitVec.ofNat 10 r.first) (BitVec.ofNat 10 r.last) ∉ s.control then
            { r with phase := .serving r.first }
          else r }) ∧
    ((match sent.frame.body with
        | .cblk _ _ _ _ | .cend _ _ _ | .cabt _ _ | .ccan _ _ => True
        | .opn _ _ _ _ | .close _ _ _ | .upd _ _ _ _ | .ntc _ _ _ | .creq _ _ _ _ | .cbeg _ _ _ _ => False) →
      exec (.otherFrameReadback intact) s = .next (s.driven sent))

/-- The readback of the CLOSE ends the slot, intact or corrupt: the LEAVING slot's takes the station to CONFIGURED, so does
one in COLD_START with a LEAVE pending, and a slot start that was kept opens its slot. After the slot was abandoned it acts on
nothing (R94, R95, R103, R110, R80). That a readback brings the clock's position and the slot's count to the frame's end, from
which the kept slot's count is taken, is the model's choice (log entry 4). That an account of a LEAVING peer, open as the
station comes off the line, is not reported to the Roster is inferred (log entry 22), and so is that the foreign mark stands
where the timers stop (log entry 18). -/
def Obligations.CloseReadbackEndsTheSlot : Prop :=
  ∀ (s : State) (p : Profile) (f : Filling) (sent : Sending) (updates frames : Byte) (touched : WindowSet)
    (intact : Bool), s.profile = some p → s.transmitter = some sent →
    sent.frame.body = .close updates frames touched →
    (s.offSlot → exec (.closeReadback intact) s = .next (s.driven sent)) ∧
    (s.inSlot f →
    let idle : State := { s.driven sent with filler := none }
    (s.station = .leaving → f.leaving = true → ∃ t, exec (.closeReadback intact) s = .next t ∧
      CameOff p .configured .leaveDone idle t) ∧
    (s.station = .coldStart → s.leavePending = true → ∃ t, exec (.closeReadback intact) s = .next t ∧
      Reports s t [⟨s.ownSubject, s.clock.round, .stationState .coldStart .configured .leaveDone 0⟩] ∧
      t = { idle with
            station := .configured, leavePending := false, receiver := .off, roster := [], lastOpened := none
            clock := { s.clock with
              position := none, misalignedCount := 0, onTimeMark := false, misalignedMark := false, syncLoss := false
              quiet := none, join := none, standoff := none }
            events := t.events, eventOverflow := t.eventOverflow }) ∧
    (¬ (s.station = .leaving ∧ f.leaving = true) → ¬ (s.station = .coldStart ∧ s.leavePending = true) →
      match f.deferred with
      | none => exec (.closeReadback intact) s = .next idle
      | some d =>
        if s.station.takesPart = true then
          ∃ t, exec (.closeReadback intact) s = .next t ∧
            idle.OpensSlot t p d.slot d.round (max f.count (sent.start + 20) - d.since)
        else exec (.closeReadback intact) s = .next idle))

/-! ## The own slots -/

/-- The slot start of a slot puts the clock there and arms the open account for the slot's expiry; an own slot is opened,
unless it was the last opened, or is kept for the CLOSE's readback of the slot before it. The slot end of an own slot
leaves nothing but the CLOSE, offered at once where the line is free (R62, R103, R104, R120, R109). That the row brings the
position, and the slot's count with it, to its instant is the model's choice (log entry 4), and so is that a slot start
takes the place of one already kept (log entry 24); that a slot end withdraws a copy read still waiting is inferred (log
entry 13). -/
def Obligations.SlotBoundariesOpenAndCloseOwnSlots : Prop :=
  ∀ (s : State) (p : Profile) (k : Nat), s.profile = some p → s.station.clockMode = .running → k < p.slots →
    (let d : State := { s.movedTo (p.settle + k * p.slotLength) with
      account := s.account.map fun a => { a with armed := if k ∈ a.armed then a.armed else a.armed ++ [k] } }
    (p.allotment[k]? ≠ some p.station ∨ s.lastOpened = some (s.clock.round, k) →
      exec (.slotStart k) s = .next d) ∧
    (p.allotment[k]? = some p.station → s.lastOpened ≠ some (s.clock.round, k) →
      (s.filler = none → ∃ t, exec (.slotStart k) s = .next t ∧ d.OpensSlot t p k s.clock.round 0) ∧
      (∀ f, d.filler = some f → exec (.slotStart k) s = .next
        (if s.station = .leaving ∧ f.leaving = true then d
        else { d with filler := some { f with
          deferred := some { slot := k, round := s.clock.round, since := f.count } } })))) ∧
    (let e : State := s.movedTo (p.settle + (k + 1) * p.slotLength)
    (p.allotment[k]? ≠ some p.station ∨ s.filler = none → exec (.slotEnd k) s = .next e) ∧
    (∀ f, p.allotment[k]? = some p.station → e.filler = some f → exec (.slotEnd k) s = .next
      (if f.step = .closing ∨ f.step = .abandoned then { e with copyRead := none }
      else if s.transmitter = none then
        ({ e with copyRead := none } : State).sending p f (closing f) { f with step := .closing }
      else { e with copyRead := none, filler := some { f with step := .close } })))

/-- With the line free and no copy read waiting, the Slot Filler offers the next frame: the head of the Control Queue, then
the head of the Outbound Queue, sealing an UPDATE, then a copy read for the next SERVING record in turn, then the CLOSE,
each where it passes the room test and each step once the one before it has stopped. The copy read is claimed only once no
own update frame waits to be applied (R104 to R107, R109, R110, R99, R151, R152, R21). -/
def Obligations.SlotFrameOfferFollowsTheSteps : Prop :=
  ∀ (s : State) (p : Profile) (f : Filling) (order : List ServingRecord),
    s.ServingAgrees → s.WithinLimits → s.profile = some p → s.filler = some f → s.TurnOrder order →
    let send : State → FrameBody → Filling → Host.Outcome State Fault Refusal := fun x b after => .next (x.sending p f b after)
    let outboundStep := f.step = .outbound ∨
      (f.step = .control ∧ ∀ b, s.control.head? = some b → ¬ roomFor p f (12 + bodyLength b) 0)
    let copyStep := f.step = .copy ∨ (outboundStep ∧ ∀ e, s.outbound.head? = some e → match e with
      | .update _ _ _ words _ => ¬ roomFor p f (16 + 4 * words.length) (s.reserve p)
      | .notice _ _ _ => ¬ roomFor p f 16 (s.reserve p)
      | .fence _ => True)
    (s.transmitter ≠ none ∨ s.copyRead ≠ none ∨ f.step = .opened ∨ f.step = .closing ∨ f.step = .abandoned →
      exec .slotFrameOffer s = .next s) ∧
    (s.transmitter = none → s.copyRead = none →
      (f.step = .opening → ∃ b, s.isOpening p f b ∧ exec .slotFrameOffer s = send s b { f with step := .opened }) ∧
      (∀ b rest, f.step = .control → s.control = b :: rest → roomFor p f (12 + bodyLength b) 0 →
        exec .slotFrameOffer s = send { s with control := rest } b { f with frames := f.frames + 1 }) ∧
      (∀ w block first words isSealed rest, outboundStep → s.outbound = .update w block first words isSealed :: rest →
        roomFor p f (16 + 4 * words.length) (s.reserve p) →
        exec .slotFrameOffer s = send { s with outbound := .update w block first words true :: rest }
          (.upd w first block words)
          { f with step := .outbound, frames := f.frames + 1, updates := f.updates + 1,
                   touched := WindowSet.add f.touched w }) ∧
      (∀ target level tag rest, outboundStep → s.outbound = .notice target level tag :: rest →
        roomFor p f 16 (s.reserve p) →
        exec .slotFrameOffer s = send s (.ntc target level tag) { f with step := .outbound, frames := f.frames + 1 }) ∧
      (∀ r, copyStep → f.copies < p.copyShare → roomFor p f 80 0 →
        order.find? (fun r => decide (r.phase ≠ .offered)) = some r →
        ((∀ w block first words, FrameClaim.update none w block first words ∉ s.frameClaims) → exec .slotFrameOffer s =
          .next { s with copyRead := some (r.joiner, r.window), filler := some { f with step := .copy } }) ∧
        (∀ w block first words, FrameClaim.update none w block first words ∈ s.frameClaims →
          exec .slotFrameOffer s = .next { s with filler := some { f with step := .copy } })) ∧
      (f.step = .close ∨ (copyStep ∧ (p.copyShare ≤ f.copies ∨ ¬ roomFor p f 80 0 ∨ ∀ r ∈ order, r.phase = .offered)) →
        exec .slotFrameOffer s = send s (closing f) { f with step := .closing }))

/-- The copy read is granted behind every frame claim: the record's next block is read and sent as a CBLK, the turn moves
to the record, and the record moves on, or after its last block goes, with a CEND queued; a copy read without room for
its frame is released and stops the copy step (R18, R21, R109, R151 to R153). -/
def Obligations.CopyReadSendsTheNextBlock : Prop :=
  ∀ (s : State) (p : Profile) (f : Filling) (before after : List ServingRecord) (r : ServingRecord) (next block : Nat),
    s.ServingAgrees → s.profile = some p → s.filler = some f → s.serving = before ++ r :: after →
    s.copyRead = some (r.joiner, r.window) → r.phase = .serving next →
    (s.window r.window).storeBlock next = some block → block < 8192 →
    (s.frameClaims ≠ [] → exec .copyReadGranted s = .next s) ∧
    (s.frameClaims = [] → s.transmitter = none → roomFor p f 80 0 → ∃ u words,
      u = ({ s with copyRead := none } : State).sending p f (.cblk r.joiner r.window (BitVec.ofNat 10 next) words)
        { f with copies := f.copies + 1, frames := f.frames + 1 } ∧
      words.length = 16 ∧ (∀ i, i < 16 → words.getD i 0 = s.store.readWord (block * 64 + i * 4)) ∧
      exec .copyReadGranted s = .next
        (if next < r.last then
          { u with
            turn := some (r.joiner, r.window)
            serving := before ++ { r with phase := .serving (next + 1) } :: after }
        else
          { u with
            turn := before.getLast?.map fun q => (q.joiner, q.window)
            serving := before ++ after
            control := queued s.control (.cend r.joiner r.window (BitVec.ofNat 16 (r.last - r.first + 1))) })) ∧
    (s.frameClaims = [] → (s.transmitter ≠ none ∨ ¬ roomFor p f 80 0) → exec .copyReadGranted s = .next
      { s with copyRead := none, filler := some (if f.step = .copy then { f with step := .close } else f) })

/-! ## The round end and the timers -/

/-- A round end returns the position to 0, raises the round number and reduces the running timer of the catch-up record;
in ACTIVE the cold marks are reduced, a mark at 1 going, and the OFFERED records of 3 rounds or more lapse
(R60, R33, R132, R148). That the happenings of a round end are rows apart, with the number of the round that ended passed
on and a timer left at 0 for its expiry's row, is the model's choice (log entry 8), and so are the order of the rows (log
entry 9) and that ROUND_END brings the slot's count to its instant (log entry 4). -/
def Obligations.RoundEndActsInEachBlock : Prop :=
  ∀ (s : State) (p : Profile), s.Sound → s.profile = some p →
    (s.station.clockMode = .running → exec .roundEnd s = .next { s.movedTo p.round with
      clock := { s.clock with position := some 0, round := s.clock.round + 1, endedRound := s.clock.round }
      catchUp := s.catchUp.map fun c => { c with phase := match c.phase with
        | .requested wait => .requested (wait - 1)
        | .copying donor stall received => .copying donor (stall - 1) received } }) ∧
    (s.station = .active → ∃ t, exec .coldMarkReduction s = .next t ∧
      (∀ w, t.window w = { s.window w with coldMark := match (s.window w).coldMark with
        | none => none
        | some n => if n = 1 then none else some (n - 1) }) ∧
      t = { s with windows := t.windows }) ∧
    (s.station = .active → ∃ t, exec .offerLapse s = .next t ∧
      RecordsEnded (fun r => decide (r.phase = .offered ∧ 3 ≤ (s.clock.endedRound - r.beginRound).toNat)) false s t ∧
      t = { s with control := t.control, copyRead := t.copyRead, filler := t.filler, serving := t.serving,
                   turn := t.turn }) ∧
    (s.station ≠ .active → exec .coldMarkReduction s = .next s ∧ exec .offerLapse s = .next s)

/-- The misaligned-round test counts the rounds in a row in which OPENs were heard and none was on time, and the second in
a row reports a sync loss; a sync loss takes the station off the line to LISTENING (R70, R91, R80). That the report stands in
the clock until the row SYNC_LOSS takes it is the model's choice (log entry 8). That an open account of a LEAVING peer is not
reported to the Roster is inferred (log entry 22), and so is that an NTC on the line is no head in flight (log entry 12). -/
def Obligations.SyncLossTakesTheStationOffTheLine : Prop :=
  ∀ (s : State) (p : Profile), s.profile = some p →
    (s.station.takesPart = true →
      let n := if s.clock.misalignedMark = true ∧ s.clock.onTimeMark = false then s.clock.misalignedCount + 1 else 0
      exec .misalignedRoundTest s = .next { s with clock := { s.clock with
        misalignedCount := if 2 ≤ n then 0 else n
        syncLoss := if 2 ≤ n then true else s.clock.syncLoss
        onTimeMark := false, misalignedMark := false } }) ∧
    (s.station.takesPart = true → s.clock.syncLoss = true → ∃ t, exec .syncLoss s = .next t ∧
      CameOff p .listening .syncLoss s t) ∧
    (s.station.takesPart = true → s.clock.syncLoss = false → exec .syncLoss s = .next s) ∧
    (s.station.takesPart = false → exec .misalignedRoundTest s = .next s ∧ exec .syncLoss s = .next s)

/-- At a round end every PRESENT peer that was not heard in the round has one more silent round; a peer whose silent rounds
have reached the silence limit is ABSENT, and departs (R75, R77, R78, R129). That the departure is a row apart from the
examination, which leaves the count at the limit, is the model's choice (log entry 8): where several peers depart at one
round end, the test of whether an attempt may begin waits for the last of them. -/
def Obligations.SilentPeersDepart : Prop :=
  ∀ (s : State) (p : Profile) (station : StationNo), s.Sound → s.profile = some p →
    (s.station.takesPart = true → exec .rosterSilenceCheck s = .next { s with
      roster := s.roster.map fun r =>
        if r.state = .present ∧ r.lastHeard ≠ some s.clock.endedRound ∧ r.silent < p.silenceLimit then
          { r with silent := r.silent + 1 }
        else r }) ∧
    (s.station.takesPart = false → exec .rosterSilenceCheck s = .next s) ∧
    (s.station.takesPart = true → ∀ r, s.rosterOf station = some r → r.state = .present → r.silent = p.silenceLimit →
      ∃ u t, exec (.peerSilent station) s = .next t ∧ Departed station .absent .silent s u ∧
        (u.DepartureDue → t = u) ∧ (¬ u.DepartureDue → AttemptTested u t)) ∧
    (s.station.takesPart = false ∨
        (∀ r, s.rosterOf station = some r → r.state ≠ .present ∨ r.silent ≠ p.silenceLimit) →
      exec (.peerSilent station) s = .next s)

/-- The open-grace expiry of a slot that started after the account opened ends the account, and a wait timer or a stall
timer at 0 fails its attempt; another attempt may then begin. A timer that is not at 0 does nothing
(R62, R120, R123, R132, R139, R140, R129). That an expiry's row acts on a timer that the round end left at 0 is the model's
choice (log entry 8), and so are that the test of R129 waits while a departure of the Roster's examination is due (log entry
8) and that OPEN_GRACE_EXPIRY brings the clock to its instant (log entry 4). -/
def Obligations.AccountAndAttemptTimersExpire : Prop :=
  ∀ (s : State), s.Sound →
    (∀ (p : Profile) (k : Nat), s.profile = some p → s.station.clockMode = .running → k < p.slots →
      ∃ v t, exec (.openGraceExpiry k) s = .next t ∧
        (let d : State := s.movedTo (p.settle + k * p.slotLength + 20 + p.grace)
        match s.account with
        | none => v = d
        | some a => if k ∈ a.armed then EndedUnclosed a .expired d v else v = d) ∧
        AttemptTested v t) ∧
    (∀ c, s.catchUp = some c → c.phase = .requested 0 → ∃ u t, exec .waitTimerExpiry s = .next t ∧
      AttemptFailed .waitExpired s u ∧ AttemptTested u t) ∧
    (∀ c donor received, s.catchUp = some c → c.phase = .copying donor 0 received →
      ∃ u t, exec .stallTimerExpiry s = .next t ∧ AttemptFailed .stallExpired s u ∧ AttemptTested u t) ∧
    ((∀ c, s.catchUp = some c → c.phase ≠ .requested 0) → exec .waitTimerExpiry s = .next s) ∧
    ((∀ c donor received, s.catchUp = some c → c.phase ≠ .copying donor 0 received) →
      exec .stallTimerExpiry s = .next s)

/-- The quiet timer's expiry in LISTENING takes the station to COLD_START, at the start of its lowest slot; the join
timer's takes it to MUTED with the foreign mark set and starts again without; the standoff timer's takes it from
STANDOFF to LISTENING with a fresh Roster. Each acts at remaining time 0 alone, so that a quiet timer which a report has
started again does not expire (R63, R64, R86, R87, R92, R71). That an expiry with nothing to act on changes nothing is
inferred (log entry 6), and so is that the foreign mark stands in MUTED (log entry 18). -/
def Obligations.LineTimersMoveTheStation : Prop :=
  ∀ (s : State) (p : Profile), s.profile = some p →
    let round := p.settle + p.slots * p.slotLength + p.drain
    (∀ k, s.station = .listening → s.clock.quiet = some 0 → k < p.slots → p.allotment[k]? = some p.station →
      (∀ j, j < k → p.allotment[j]? ≠ some p.station) →
      ∃ u t, exec .quietTimerExpiry s = .next t ∧ exec (.slotStart k) u = .next t ∧
        Reports s u [⟨s.ownSubject, s.clock.round, .stationState .listening .coldStart .quietExpired 0⟩] ∧
        u = { s with
              station := .coldStart, leavePending := false, openFailures := 0
              clock := { s.clock with
                position := some (p.settle + k * p.slotLength), misalignedCount := 0, onTimeMark := false
                misalignedMark := false, syncLoss := false, quiet := none, join := none, standoff := none
                foreignMark := false }
              events := u.events, eventOverflow := u.eventOverflow }) ∧
    (s.station = .listening → s.clock.join = some 0 → s.clock.foreignMark = false →
      exec .joinTimerExpiry s = .next { s with clock := { s.clock with join := some (8 * round) } }) ∧
    (s.station = .listening → s.clock.join = some 0 → s.clock.foreignMark = true →
      ∃ t, exec .joinTimerExpiry s = .next t ∧
        Reports s t [⟨s.ownSubject, s.clock.round, .stationState .listening .muted .joinLimit 0⟩] ∧
        t = { s with
              station := .muted, clock := { s.clock with quiet := none, join := none, standoff := none }
              events := t.events, eventOverflow := t.eventOverflow }) ∧
    (s.station = .standoff → s.clock.standoff = some 0 →
      ∃ t, exec .standoffTimerExpiry s = .next t ∧
        Reports s t [⟨s.ownSubject, s.clock.round, .stationState .standoff .listening .standoffExpired 0⟩] ∧
        t = { s with
              station := .listening, roster := p.peers.map fun peer => { station := peer }
              clock := { s.clock with
                quiet := some (round + 256 * p.station.toNat), join := some (8 * round), standoff := none
                foreignMark := false }
              events := t.events, eventOverflow := t.eventOverflow }) ∧
    (s.station ≠ .listening ∨ s.clock.quiet ≠ some 0 → exec .quietTimerExpiry s = .next s) ∧
    (s.station ≠ .listening ∨ s.clock.join ≠ some 0 → exec .joinTimerExpiry s = .next s) ∧
    (s.station ≠ .standoff ∨ s.clock.standoff ≠ some 0 → exec .standoffTimerExpiry s = .next s)

/-! ## What every step keeps -/

/-- Every step keeps the memories in canonical form. -/
def Obligations.EveryStepKeepsMemoriesCanonical : Prop :=
  ∀ (s t : State), s.Canonical → step s = .next t → t.Canonical

/-- Every step keeps every queue and list within what the manual gives it (R97, R115, R101, R102, R145, R159, R163,
R169, R170). That an account which holds 253 notices drops one more is the model's choice (log entry 27). -/
def Obligations.EveryStepKeepsTheLimits : Prop :=
  ∀ (s t : State), s.WithinLimits → step s = .next t → t.WithinLimits

/-- Every step keeps the station sound: the clock, the receiver, the queues, the windows and the catch-up units agree with
the station state and with each other, and no attempt that could begin waits, but behind a departure of the Roster's
examination that is due. That the test of R129 waits for the last of those departures is the model's choice (log entry 8). -/
def Obligations.EveryStepKeepsTheStationSound : Prop :=
  ∀ (s t : State), s.Sound → step s = .next t → t.Sound

/-- With every held window's span in the store, every step answers a next state, in which that holds again: no claim ever
names a store block that the store does not have (R3, R15). -/
def Obligations.EveryStepStaysInTheStore : Prop :=
  ∀ (s : State), s.SpansInStore → ∃ t, step s = .next t ∧ t.SpansInStore

/-- The state after power-on reset meets all that every step keeps. -/
def Obligations.ResetMeetsEveryInvariant : Prop :=
  State.reset.Canonical ∧ State.reset.WithinLimits ∧ State.reset.Sound ∧ State.reset.SpansInStore

/-- A frame's bytes are read back as the frame: no field of it is dropped or moved. The readback of an own frame that is not
malformed is intact exactly where the bytes that came back are the bytes sent, and corrupt where any byte differs, as where
another station drove the line too (R40, R42 to R51, R55, R56, R172). -/
def Obligations.FrameBytesAreReadBack : Prop :=
  ∀ (f : Frame), (∀ w first block words, f.body = .upd w first block words → 1 ≤ words.length ∧ words.length ≤ 16) →
    (∀ joiner w block words, f.body = .cblk joiner w block words → words.length = 16) →
    frameIn (Frame.covered f) = some f ∧
      ∀ (s : State) (received : List Byte), s.malformedOwn f.header f.body = false →
        (s.readbackIntact f received = true ↔ received = Frame.lineBytes f)
end

