-- ==== Sys2Proof/Laws/State.lean ====
section
/-! SUPPORT. Laws/State.lean: for every update of the state that the meanings share, one lemma per field it leaves as it
is, and what it writes where that is short. -/

namespace Sys2Proof.Laws

open Sys2Proof.Machine

variable (s : State)

/-! ### writeStore -/

@[simp] theorem writeStore_station (block word : Nat) (words : List Word) : (s.writeStore block word words).station = s.station := by dsimp only [State.writeStore]
@[simp] theorem writeStore_leavePending (block word : Nat) (words : List Word) : (s.writeStore block word words).leavePending = s.leavePending := by dsimp only [State.writeStore]
@[simp] theorem writeStore_openFailures (block word : Nat) (words : List Word) : (s.writeStore block word words).openFailures = s.openFailures := by dsimp only [State.writeStore]
@[simp] theorem writeStore_profile (block word : Nat) (words : List Word) : (s.writeStore block word words).profile = s.profile := by dsimp only [State.writeStore]
@[simp] theorem writeStore_windows (block word : Nat) (words : List Word) : (s.writeStore block word words).windows = s.windows := by dsimp only [State.writeStore]
@[simp] theorem writeStore_initPass (block word : Nat) (words : List Word) : (s.writeStore block word words).initPass = s.initPass := by dsimp only [State.writeStore]
@[simp] theorem writeStore_frameClaims (block word : Nat) (words : List Word) : (s.writeStore block word words).frameClaims = s.frameClaims := by dsimp only [State.writeStore]
@[simp] theorem writeStore_copyRead (block word : Nat) (words : List Word) : (s.writeStore block word words).copyRead = s.copyRead := by dsimp only [State.writeStore]
@[simp] theorem writeStore_hostClaim (block word : Nat) (words : List Word) : (s.writeStore block word words).hostClaim = s.hostClaim := by dsimp only [State.writeStore]
@[simp] theorem writeStore_busResponse (block word : Nat) (words : List Word) : (s.writeStore block word words).busResponse = s.busResponse := by dsimp only [State.writeStore]
@[simp] theorem writeStore_region (block word : Nat) (words : List Word) : (s.writeStore block word words).region = s.region := by dsimp only [State.writeStore]
@[simp] theorem writeStore_completion (block word : Nat) (words : List Word) : (s.writeStore block word words).completion = s.completion := by dsimp only [State.writeStore]
@[simp] theorem writeStore_inFlight (block word : Nat) (words : List Word) : (s.writeStore block word words).inFlight = s.inFlight := by dsimp only [State.writeStore]
@[simp] theorem writeStore_transmitter (block word : Nat) (words : List Word) : (s.writeStore block word words).transmitter = s.transmitter := by dsimp only [State.writeStore]
@[simp] theorem writeStore_receiver (block word : Nat) (words : List Word) : (s.writeStore block word words).receiver = s.receiver := by dsimp only [State.writeStore]
@[simp] theorem writeStore_clock (block word : Nat) (words : List Word) : (s.writeStore block word words).clock = s.clock := by dsimp only [State.writeStore]
@[simp] theorem writeStore_roster (block word : Nat) (words : List Word) : (s.writeStore block word words).roster = s.roster := by dsimp only [State.writeStore]
@[simp] theorem writeStore_outbound (block word : Nat) (words : List Word) : (s.writeStore block word words).outbound = s.outbound := by dsimp only [State.writeStore]
@[simp] theorem writeStore_control (block word : Nat) (words : List Word) : (s.writeStore block word words).control = s.control := by dsimp only [State.writeStore]
@[simp] theorem writeStore_filler (block word : Nat) (words : List Word) : (s.writeStore block word words).filler = s.filler := by dsimp only [State.writeStore]
@[simp] theorem writeStore_lastOpened (block word : Nat) (words : List Word) : (s.writeStore block word words).lastOpened = s.lastOpened := by dsimp only [State.writeStore]
@[simp] theorem writeStore_account (block word : Nat) (words : List Word) : (s.writeStore block word words).account = s.account := by dsimp only [State.writeStore]
@[simp] theorem writeStore_resync (block word : Nat) (words : List Word) : (s.writeStore block word words).resync = s.resync := by dsimp only [State.writeStore]
@[simp] theorem writeStore_catchUp (block word : Nat) (words : List Word) : (s.writeStore block word words).catchUp = s.catchUp := by dsimp only [State.writeStore]
@[simp] theorem writeStore_serving (block word : Nat) (words : List Word) : (s.writeStore block word words).serving = s.serving := by dsimp only [State.writeStore]
@[simp] theorem writeStore_turn (block word : Nat) (words : List Word) : (s.writeStore block word words).turn = s.turn := by dsimp only [State.writeStore]
@[simp] theorem writeStore_notices (block word : Nat) (words : List Word) : (s.writeStore block word words).notices = s.notices := by dsimp only [State.writeStore]
@[simp] theorem writeStore_events (block word : Nat) (words : List Word) : (s.writeStore block word words).events = s.events := by dsimp only [State.writeStore]
@[simp] theorem writeStore_eventOverflow (block word : Nat) (words : List Word) : (s.writeStore block word words).eventOverflow = s.eventOverflow := by dsimp only [State.writeStore]
@[simp] theorem writeStore_pending (block word : Nat) (words : List Word) : (s.writeStore block word words).pending = s.pending := by dsimp only [State.writeStore]

/-! ### setWindow -/

@[simp] theorem setWindow_station (w : WindowNo) (r : WindowRecord) : (s.setWindow w r).station = s.station := by dsimp only [State.setWindow]
@[simp] theorem setWindow_leavePending (w : WindowNo) (r : WindowRecord) : (s.setWindow w r).leavePending = s.leavePending := by dsimp only [State.setWindow]
@[simp] theorem setWindow_openFailures (w : WindowNo) (r : WindowRecord) : (s.setWindow w r).openFailures = s.openFailures := by dsimp only [State.setWindow]
@[simp] theorem setWindow_profile (w : WindowNo) (r : WindowRecord) : (s.setWindow w r).profile = s.profile := by dsimp only [State.setWindow]
@[simp] theorem setWindow_store (w : WindowNo) (r : WindowRecord) : (s.setWindow w r).store = s.store := by dsimp only [State.setWindow]
@[simp] theorem setWindow_initPass (w : WindowNo) (r : WindowRecord) : (s.setWindow w r).initPass = s.initPass := by dsimp only [State.setWindow]
@[simp] theorem setWindow_frameClaims (w : WindowNo) (r : WindowRecord) : (s.setWindow w r).frameClaims = s.frameClaims := by dsimp only [State.setWindow]
@[simp] theorem setWindow_copyRead (w : WindowNo) (r : WindowRecord) : (s.setWindow w r).copyRead = s.copyRead := by dsimp only [State.setWindow]
@[simp] theorem setWindow_hostClaim (w : WindowNo) (r : WindowRecord) : (s.setWindow w r).hostClaim = s.hostClaim := by dsimp only [State.setWindow]
@[simp] theorem setWindow_busResponse (w : WindowNo) (r : WindowRecord) : (s.setWindow w r).busResponse = s.busResponse := by dsimp only [State.setWindow]
@[simp] theorem setWindow_region (w : WindowNo) (r : WindowRecord) : (s.setWindow w r).region = s.region := by dsimp only [State.setWindow]
@[simp] theorem setWindow_completion (w : WindowNo) (r : WindowRecord) : (s.setWindow w r).completion = s.completion := by dsimp only [State.setWindow]
@[simp] theorem setWindow_inFlight (w : WindowNo) (r : WindowRecord) : (s.setWindow w r).inFlight = s.inFlight := by dsimp only [State.setWindow]
@[simp] theorem setWindow_transmitter (w : WindowNo) (r : WindowRecord) : (s.setWindow w r).transmitter = s.transmitter := by dsimp only [State.setWindow]
@[simp] theorem setWindow_receiver (w : WindowNo) (r : WindowRecord) : (s.setWindow w r).receiver = s.receiver := by dsimp only [State.setWindow]
@[simp] theorem setWindow_clock (w : WindowNo) (r : WindowRecord) : (s.setWindow w r).clock = s.clock := by dsimp only [State.setWindow]
@[simp] theorem setWindow_roster (w : WindowNo) (r : WindowRecord) : (s.setWindow w r).roster = s.roster := by dsimp only [State.setWindow]
@[simp] theorem setWindow_outbound (w : WindowNo) (r : WindowRecord) : (s.setWindow w r).outbound = s.outbound := by dsimp only [State.setWindow]
@[simp] theorem setWindow_control (w : WindowNo) (r : WindowRecord) : (s.setWindow w r).control = s.control := by dsimp only [State.setWindow]
@[simp] theorem setWindow_filler (w : WindowNo) (r : WindowRecord) : (s.setWindow w r).filler = s.filler := by dsimp only [State.setWindow]
@[simp] theorem setWindow_lastOpened (w : WindowNo) (r : WindowRecord) : (s.setWindow w r).lastOpened = s.lastOpened := by dsimp only [State.setWindow]
@[simp] theorem setWindow_account (w : WindowNo) (r : WindowRecord) : (s.setWindow w r).account = s.account := by dsimp only [State.setWindow]
@[simp] theorem setWindow_resync (w : WindowNo) (r : WindowRecord) : (s.setWindow w r).resync = s.resync := by dsimp only [State.setWindow]
@[simp] theorem setWindow_catchUp (w : WindowNo) (r : WindowRecord) : (s.setWindow w r).catchUp = s.catchUp := by dsimp only [State.setWindow]
@[simp] theorem setWindow_serving (w : WindowNo) (r : WindowRecord) : (s.setWindow w r).serving = s.serving := by dsimp only [State.setWindow]
@[simp] theorem setWindow_turn (w : WindowNo) (r : WindowRecord) : (s.setWindow w r).turn = s.turn := by dsimp only [State.setWindow]
@[simp] theorem setWindow_notices (w : WindowNo) (r : WindowRecord) : (s.setWindow w r).notices = s.notices := by dsimp only [State.setWindow]
@[simp] theorem setWindow_events (w : WindowNo) (r : WindowRecord) : (s.setWindow w r).events = s.events := by dsimp only [State.setWindow]
@[simp] theorem setWindow_eventOverflow (w : WindowNo) (r : WindowRecord) : (s.setWindow w r).eventOverflow = s.eventOverflow := by dsimp only [State.setWindow]
@[simp] theorem setWindow_pending (w : WindowNo) (r : WindowRecord) : (s.setWindow w r).pending = s.pending := by dsimp only [State.setWindow]

/-! ### mapWindows -/

@[simp] theorem mapWindows_station (f : WindowRecord → WindowRecord) : (s.mapWindows f).station = s.station := by dsimp only [State.mapWindows]
@[simp] theorem mapWindows_leavePending (f : WindowRecord → WindowRecord) : (s.mapWindows f).leavePending = s.leavePending := by dsimp only [State.mapWindows]
@[simp] theorem mapWindows_openFailures (f : WindowRecord → WindowRecord) : (s.mapWindows f).openFailures = s.openFailures := by dsimp only [State.mapWindows]
@[simp] theorem mapWindows_profile (f : WindowRecord → WindowRecord) : (s.mapWindows f).profile = s.profile := by dsimp only [State.mapWindows]
@[simp] theorem mapWindows_store (f : WindowRecord → WindowRecord) : (s.mapWindows f).store = s.store := by dsimp only [State.mapWindows]
@[simp] theorem mapWindows_initPass (f : WindowRecord → WindowRecord) : (s.mapWindows f).initPass = s.initPass := by dsimp only [State.mapWindows]
@[simp] theorem mapWindows_frameClaims (f : WindowRecord → WindowRecord) : (s.mapWindows f).frameClaims = s.frameClaims := by dsimp only [State.mapWindows]
@[simp] theorem mapWindows_copyRead (f : WindowRecord → WindowRecord) : (s.mapWindows f).copyRead = s.copyRead := by dsimp only [State.mapWindows]
@[simp] theorem mapWindows_hostClaim (f : WindowRecord → WindowRecord) : (s.mapWindows f).hostClaim = s.hostClaim := by dsimp only [State.mapWindows]
@[simp] theorem mapWindows_busResponse (f : WindowRecord → WindowRecord) : (s.mapWindows f).busResponse = s.busResponse := by dsimp only [State.mapWindows]
@[simp] theorem mapWindows_region (f : WindowRecord → WindowRecord) : (s.mapWindows f).region = s.region := by dsimp only [State.mapWindows]
@[simp] theorem mapWindows_completion (f : WindowRecord → WindowRecord) : (s.mapWindows f).completion = s.completion := by dsimp only [State.mapWindows]
@[simp] theorem mapWindows_inFlight (f : WindowRecord → WindowRecord) : (s.mapWindows f).inFlight = s.inFlight := by dsimp only [State.mapWindows]
@[simp] theorem mapWindows_transmitter (f : WindowRecord → WindowRecord) : (s.mapWindows f).transmitter = s.transmitter := by dsimp only [State.mapWindows]
@[simp] theorem mapWindows_receiver (f : WindowRecord → WindowRecord) : (s.mapWindows f).receiver = s.receiver := by dsimp only [State.mapWindows]
@[simp] theorem mapWindows_clock (f : WindowRecord → WindowRecord) : (s.mapWindows f).clock = s.clock := by dsimp only [State.mapWindows]
@[simp] theorem mapWindows_roster (f : WindowRecord → WindowRecord) : (s.mapWindows f).roster = s.roster := by dsimp only [State.mapWindows]
@[simp] theorem mapWindows_outbound (f : WindowRecord → WindowRecord) : (s.mapWindows f).outbound = s.outbound := by dsimp only [State.mapWindows]
@[simp] theorem mapWindows_control (f : WindowRecord → WindowRecord) : (s.mapWindows f).control = s.control := by dsimp only [State.mapWindows]
@[simp] theorem mapWindows_filler (f : WindowRecord → WindowRecord) : (s.mapWindows f).filler = s.filler := by dsimp only [State.mapWindows]
@[simp] theorem mapWindows_lastOpened (f : WindowRecord → WindowRecord) : (s.mapWindows f).lastOpened = s.lastOpened := by dsimp only [State.mapWindows]
@[simp] theorem mapWindows_account (f : WindowRecord → WindowRecord) : (s.mapWindows f).account = s.account := by dsimp only [State.mapWindows]
@[simp] theorem mapWindows_resync (f : WindowRecord → WindowRecord) : (s.mapWindows f).resync = s.resync := by dsimp only [State.mapWindows]
@[simp] theorem mapWindows_catchUp (f : WindowRecord → WindowRecord) : (s.mapWindows f).catchUp = s.catchUp := by dsimp only [State.mapWindows]
@[simp] theorem mapWindows_serving (f : WindowRecord → WindowRecord) : (s.mapWindows f).serving = s.serving := by dsimp only [State.mapWindows]
@[simp] theorem mapWindows_turn (f : WindowRecord → WindowRecord) : (s.mapWindows f).turn = s.turn := by dsimp only [State.mapWindows]
@[simp] theorem mapWindows_notices (f : WindowRecord → WindowRecord) : (s.mapWindows f).notices = s.notices := by dsimp only [State.mapWindows]
@[simp] theorem mapWindows_events (f : WindowRecord → WindowRecord) : (s.mapWindows f).events = s.events := by dsimp only [State.mapWindows]
@[simp] theorem mapWindows_eventOverflow (f : WindowRecord → WindowRecord) : (s.mapWindows f).eventOverflow = s.eventOverflow := by dsimp only [State.mapWindows]
@[simp] theorem mapWindows_pending (f : WindowRecord → WindowRecord) : (s.mapWindows f).pending = s.pending := by dsimp only [State.mapWindows]

/-! ### setWritten -/

@[simp] theorem setWritten_station (w : WindowNo) : (s.setWritten w).station = s.station := by dsimp only [State.setWritten, State.setWindow]
@[simp] theorem setWritten_leavePending (w : WindowNo) : (s.setWritten w).leavePending = s.leavePending := by dsimp only [State.setWritten, State.setWindow]
@[simp] theorem setWritten_openFailures (w : WindowNo) : (s.setWritten w).openFailures = s.openFailures := by dsimp only [State.setWritten, State.setWindow]
@[simp] theorem setWritten_profile (w : WindowNo) : (s.setWritten w).profile = s.profile := by dsimp only [State.setWritten, State.setWindow]
@[simp] theorem setWritten_store (w : WindowNo) : (s.setWritten w).store = s.store := by dsimp only [State.setWritten, State.setWindow]
@[simp] theorem setWritten_initPass (w : WindowNo) : (s.setWritten w).initPass = s.initPass := by dsimp only [State.setWritten, State.setWindow]
@[simp] theorem setWritten_frameClaims (w : WindowNo) : (s.setWritten w).frameClaims = s.frameClaims := by dsimp only [State.setWritten, State.setWindow]
@[simp] theorem setWritten_copyRead (w : WindowNo) : (s.setWritten w).copyRead = s.copyRead := by dsimp only [State.setWritten, State.setWindow]
@[simp] theorem setWritten_hostClaim (w : WindowNo) : (s.setWritten w).hostClaim = s.hostClaim := by dsimp only [State.setWritten, State.setWindow]
@[simp] theorem setWritten_busResponse (w : WindowNo) : (s.setWritten w).busResponse = s.busResponse := by dsimp only [State.setWritten, State.setWindow]
@[simp] theorem setWritten_region (w : WindowNo) : (s.setWritten w).region = s.region := by dsimp only [State.setWritten, State.setWindow]
@[simp] theorem setWritten_completion (w : WindowNo) : (s.setWritten w).completion = s.completion := by dsimp only [State.setWritten, State.setWindow]
@[simp] theorem setWritten_inFlight (w : WindowNo) : (s.setWritten w).inFlight = s.inFlight := by dsimp only [State.setWritten, State.setWindow]
@[simp] theorem setWritten_transmitter (w : WindowNo) : (s.setWritten w).transmitter = s.transmitter := by dsimp only [State.setWritten, State.setWindow]
@[simp] theorem setWritten_receiver (w : WindowNo) : (s.setWritten w).receiver = s.receiver := by dsimp only [State.setWritten, State.setWindow]
@[simp] theorem setWritten_clock (w : WindowNo) : (s.setWritten w).clock = s.clock := by dsimp only [State.setWritten, State.setWindow]
@[simp] theorem setWritten_roster (w : WindowNo) : (s.setWritten w).roster = s.roster := by dsimp only [State.setWritten, State.setWindow]
@[simp] theorem setWritten_outbound (w : WindowNo) : (s.setWritten w).outbound = s.outbound := by dsimp only [State.setWritten, State.setWindow]
@[simp] theorem setWritten_control (w : WindowNo) : (s.setWritten w).control = s.control := by dsimp only [State.setWritten, State.setWindow]
@[simp] theorem setWritten_filler (w : WindowNo) : (s.setWritten w).filler = s.filler := by dsimp only [State.setWritten, State.setWindow]
@[simp] theorem setWritten_lastOpened (w : WindowNo) : (s.setWritten w).lastOpened = s.lastOpened := by dsimp only [State.setWritten, State.setWindow]
@[simp] theorem setWritten_account (w : WindowNo) : (s.setWritten w).account = s.account := by dsimp only [State.setWritten, State.setWindow]
@[simp] theorem setWritten_resync (w : WindowNo) : (s.setWritten w).resync = s.resync := by dsimp only [State.setWritten, State.setWindow]
@[simp] theorem setWritten_catchUp (w : WindowNo) : (s.setWritten w).catchUp = s.catchUp := by dsimp only [State.setWritten, State.setWindow]
@[simp] theorem setWritten_serving (w : WindowNo) : (s.setWritten w).serving = s.serving := by dsimp only [State.setWritten, State.setWindow]
@[simp] theorem setWritten_turn (w : WindowNo) : (s.setWritten w).turn = s.turn := by dsimp only [State.setWritten, State.setWindow]
@[simp] theorem setWritten_notices (w : WindowNo) : (s.setWritten w).notices = s.notices := by dsimp only [State.setWritten, State.setWindow]
@[simp] theorem setWritten_events (w : WindowNo) : (s.setWritten w).events = s.events := by dsimp only [State.setWritten, State.setWindow]
@[simp] theorem setWritten_eventOverflow (w : WindowNo) : (s.setWritten w).eventOverflow = s.eventOverflow := by dsimp only [State.setWritten, State.setWindow]
@[simp] theorem setWritten_pending (w : WindowNo) : (s.setWritten w).pending = s.pending := by dsimp only [State.setWritten, State.setWindow]

/-! ### appendEvent -/

@[simp] theorem appendEvent_station (e : Event) : (s.appendEvent e).station = s.station := by dsimp only [State.appendEvent]
@[simp] theorem appendEvent_leavePending (e : Event) : (s.appendEvent e).leavePending = s.leavePending := by dsimp only [State.appendEvent]
@[simp] theorem appendEvent_openFailures (e : Event) : (s.appendEvent e).openFailures = s.openFailures := by dsimp only [State.appendEvent]
@[simp] theorem appendEvent_profile (e : Event) : (s.appendEvent e).profile = s.profile := by dsimp only [State.appendEvent]
@[simp] theorem appendEvent_windows (e : Event) : (s.appendEvent e).windows = s.windows := by dsimp only [State.appendEvent]
@[simp] theorem appendEvent_store (e : Event) : (s.appendEvent e).store = s.store := by dsimp only [State.appendEvent]
@[simp] theorem appendEvent_initPass (e : Event) : (s.appendEvent e).initPass = s.initPass := by dsimp only [State.appendEvent]
@[simp] theorem appendEvent_frameClaims (e : Event) : (s.appendEvent e).frameClaims = s.frameClaims := by dsimp only [State.appendEvent]
@[simp] theorem appendEvent_copyRead (e : Event) : (s.appendEvent e).copyRead = s.copyRead := by dsimp only [State.appendEvent]
@[simp] theorem appendEvent_hostClaim (e : Event) : (s.appendEvent e).hostClaim = s.hostClaim := by dsimp only [State.appendEvent]
@[simp] theorem appendEvent_busResponse (e : Event) : (s.appendEvent e).busResponse = s.busResponse := by dsimp only [State.appendEvent]
@[simp] theorem appendEvent_region (e : Event) : (s.appendEvent e).region = s.region := by dsimp only [State.appendEvent]
@[simp] theorem appendEvent_completion (e : Event) : (s.appendEvent e).completion = s.completion := by dsimp only [State.appendEvent]
@[simp] theorem appendEvent_inFlight (e : Event) : (s.appendEvent e).inFlight = s.inFlight := by dsimp only [State.appendEvent]
@[simp] theorem appendEvent_transmitter (e : Event) : (s.appendEvent e).transmitter = s.transmitter := by dsimp only [State.appendEvent]
@[simp] theorem appendEvent_receiver (e : Event) : (s.appendEvent e).receiver = s.receiver := by dsimp only [State.appendEvent]
@[simp] theorem appendEvent_clock (e : Event) : (s.appendEvent e).clock = s.clock := by dsimp only [State.appendEvent]
@[simp] theorem appendEvent_roster (e : Event) : (s.appendEvent e).roster = s.roster := by dsimp only [State.appendEvent]
@[simp] theorem appendEvent_outbound (e : Event) : (s.appendEvent e).outbound = s.outbound := by dsimp only [State.appendEvent]
@[simp] theorem appendEvent_control (e : Event) : (s.appendEvent e).control = s.control := by dsimp only [State.appendEvent]
@[simp] theorem appendEvent_filler (e : Event) : (s.appendEvent e).filler = s.filler := by dsimp only [State.appendEvent]
@[simp] theorem appendEvent_lastOpened (e : Event) : (s.appendEvent e).lastOpened = s.lastOpened := by dsimp only [State.appendEvent]
@[simp] theorem appendEvent_account (e : Event) : (s.appendEvent e).account = s.account := by dsimp only [State.appendEvent]
@[simp] theorem appendEvent_resync (e : Event) : (s.appendEvent e).resync = s.resync := by dsimp only [State.appendEvent]
@[simp] theorem appendEvent_catchUp (e : Event) : (s.appendEvent e).catchUp = s.catchUp := by dsimp only [State.appendEvent]
@[simp] theorem appendEvent_serving (e : Event) : (s.appendEvent e).serving = s.serving := by dsimp only [State.appendEvent]
@[simp] theorem appendEvent_turn (e : Event) : (s.appendEvent e).turn = s.turn := by dsimp only [State.appendEvent]
@[simp] theorem appendEvent_notices (e : Event) : (s.appendEvent e).notices = s.notices := by dsimp only [State.appendEvent]
@[simp] theorem appendEvent_pending (e : Event) : (s.appendEvent e).pending = s.pending := by dsimp only [State.appendEvent]

/-! ### event -/

@[simp] theorem event_station (subject : Option Half) (d : EventDetail) : (s.event subject d).station = s.station := by dsimp only [State.event, State.appendEvent]
@[simp] theorem event_leavePending (subject : Option Half) (d : EventDetail) : (s.event subject d).leavePending = s.leavePending := by dsimp only [State.event, State.appendEvent]
@[simp] theorem event_openFailures (subject : Option Half) (d : EventDetail) : (s.event subject d).openFailures = s.openFailures := by dsimp only [State.event, State.appendEvent]
@[simp] theorem event_profile (subject : Option Half) (d : EventDetail) : (s.event subject d).profile = s.profile := by dsimp only [State.event, State.appendEvent]
@[simp] theorem event_windows (subject : Option Half) (d : EventDetail) : (s.event subject d).windows = s.windows := by dsimp only [State.event, State.appendEvent]
@[simp] theorem event_store (subject : Option Half) (d : EventDetail) : (s.event subject d).store = s.store := by dsimp only [State.event, State.appendEvent]
@[simp] theorem event_initPass (subject : Option Half) (d : EventDetail) : (s.event subject d).initPass = s.initPass := by dsimp only [State.event, State.appendEvent]
@[simp] theorem event_frameClaims (subject : Option Half) (d : EventDetail) : (s.event subject d).frameClaims = s.frameClaims := by dsimp only [State.event, State.appendEvent]
@[simp] theorem event_copyRead (subject : Option Half) (d : EventDetail) : (s.event subject d).copyRead = s.copyRead := by dsimp only [State.event, State.appendEvent]
@[simp] theorem event_hostClaim (subject : Option Half) (d : EventDetail) : (s.event subject d).hostClaim = s.hostClaim := by dsimp only [State.event, State.appendEvent]
@[simp] theorem event_busResponse (subject : Option Half) (d : EventDetail) : (s.event subject d).busResponse = s.busResponse := by dsimp only [State.event, State.appendEvent]
@[simp] theorem event_region (subject : Option Half) (d : EventDetail) : (s.event subject d).region = s.region := by dsimp only [State.event, State.appendEvent]
@[simp] theorem event_completion (subject : Option Half) (d : EventDetail) : (s.event subject d).completion = s.completion := by dsimp only [State.event, State.appendEvent]
@[simp] theorem event_inFlight (subject : Option Half) (d : EventDetail) : (s.event subject d).inFlight = s.inFlight := by dsimp only [State.event, State.appendEvent]
@[simp] theorem event_transmitter (subject : Option Half) (d : EventDetail) : (s.event subject d).transmitter = s.transmitter := by dsimp only [State.event, State.appendEvent]
@[simp] theorem event_receiver (subject : Option Half) (d : EventDetail) : (s.event subject d).receiver = s.receiver := by dsimp only [State.event, State.appendEvent]
@[simp] theorem event_clock (subject : Option Half) (d : EventDetail) : (s.event subject d).clock = s.clock := by dsimp only [State.event, State.appendEvent]
@[simp] theorem event_roster (subject : Option Half) (d : EventDetail) : (s.event subject d).roster = s.roster := by dsimp only [State.event, State.appendEvent]
@[simp] theorem event_outbound (subject : Option Half) (d : EventDetail) : (s.event subject d).outbound = s.outbound := by dsimp only [State.event, State.appendEvent]
@[simp] theorem event_control (subject : Option Half) (d : EventDetail) : (s.event subject d).control = s.control := by dsimp only [State.event, State.appendEvent]
@[simp] theorem event_filler (subject : Option Half) (d : EventDetail) : (s.event subject d).filler = s.filler := by dsimp only [State.event, State.appendEvent]
@[simp] theorem event_lastOpened (subject : Option Half) (d : EventDetail) : (s.event subject d).lastOpened = s.lastOpened := by dsimp only [State.event, State.appendEvent]
@[simp] theorem event_account (subject : Option Half) (d : EventDetail) : (s.event subject d).account = s.account := by dsimp only [State.event, State.appendEvent]
@[simp] theorem event_resync (subject : Option Half) (d : EventDetail) : (s.event subject d).resync = s.resync := by dsimp only [State.event, State.appendEvent]
@[simp] theorem event_catchUp (subject : Option Half) (d : EventDetail) : (s.event subject d).catchUp = s.catchUp := by dsimp only [State.event, State.appendEvent]
@[simp] theorem event_serving (subject : Option Half) (d : EventDetail) : (s.event subject d).serving = s.serving := by dsimp only [State.event, State.appendEvent]
@[simp] theorem event_turn (subject : Option Half) (d : EventDetail) : (s.event subject d).turn = s.turn := by dsimp only [State.event, State.appendEvent]
@[simp] theorem event_notices (subject : Option Half) (d : EventDetail) : (s.event subject d).notices = s.notices := by dsimp only [State.event, State.appendEvent]
@[simp] theorem event_pending (subject : Option Half) (d : EventDetail) : (s.event subject d).pending = s.pending := by dsimp only [State.event, State.appendEvent]

/-! ### queueControl -/

@[simp] theorem queueControl_station (f : FrameBody) : (s.queueControl f).station = s.station := by dsimp only [State.queueControl]
@[simp] theorem queueControl_leavePending (f : FrameBody) : (s.queueControl f).leavePending = s.leavePending := by dsimp only [State.queueControl]
@[simp] theorem queueControl_openFailures (f : FrameBody) : (s.queueControl f).openFailures = s.openFailures := by dsimp only [State.queueControl]
@[simp] theorem queueControl_profile (f : FrameBody) : (s.queueControl f).profile = s.profile := by dsimp only [State.queueControl]
@[simp] theorem queueControl_windows (f : FrameBody) : (s.queueControl f).windows = s.windows := by dsimp only [State.queueControl]
@[simp] theorem queueControl_store (f : FrameBody) : (s.queueControl f).store = s.store := by dsimp only [State.queueControl]
@[simp] theorem queueControl_initPass (f : FrameBody) : (s.queueControl f).initPass = s.initPass := by dsimp only [State.queueControl]
@[simp] theorem queueControl_frameClaims (f : FrameBody) : (s.queueControl f).frameClaims = s.frameClaims := by dsimp only [State.queueControl]
@[simp] theorem queueControl_copyRead (f : FrameBody) : (s.queueControl f).copyRead = s.copyRead := by dsimp only [State.queueControl]
@[simp] theorem queueControl_hostClaim (f : FrameBody) : (s.queueControl f).hostClaim = s.hostClaim := by dsimp only [State.queueControl]
@[simp] theorem queueControl_busResponse (f : FrameBody) : (s.queueControl f).busResponse = s.busResponse := by dsimp only [State.queueControl]
@[simp] theorem queueControl_region (f : FrameBody) : (s.queueControl f).region = s.region := by dsimp only [State.queueControl]
@[simp] theorem queueControl_completion (f : FrameBody) : (s.queueControl f).completion = s.completion := by dsimp only [State.queueControl]
@[simp] theorem queueControl_inFlight (f : FrameBody) : (s.queueControl f).inFlight = s.inFlight := by dsimp only [State.queueControl]
@[simp] theorem queueControl_transmitter (f : FrameBody) : (s.queueControl f).transmitter = s.transmitter := by dsimp only [State.queueControl]
@[simp] theorem queueControl_receiver (f : FrameBody) : (s.queueControl f).receiver = s.receiver := by dsimp only [State.queueControl]
@[simp] theorem queueControl_clock (f : FrameBody) : (s.queueControl f).clock = s.clock := by dsimp only [State.queueControl]
@[simp] theorem queueControl_roster (f : FrameBody) : (s.queueControl f).roster = s.roster := by dsimp only [State.queueControl]
@[simp] theorem queueControl_outbound (f : FrameBody) : (s.queueControl f).outbound = s.outbound := by dsimp only [State.queueControl]
@[simp] theorem queueControl_filler (f : FrameBody) : (s.queueControl f).filler = s.filler := by dsimp only [State.queueControl]
@[simp] theorem queueControl_lastOpened (f : FrameBody) : (s.queueControl f).lastOpened = s.lastOpened := by dsimp only [State.queueControl]
@[simp] theorem queueControl_account (f : FrameBody) : (s.queueControl f).account = s.account := by dsimp only [State.queueControl]
@[simp] theorem queueControl_resync (f : FrameBody) : (s.queueControl f).resync = s.resync := by dsimp only [State.queueControl]
@[simp] theorem queueControl_catchUp (f : FrameBody) : (s.queueControl f).catchUp = s.catchUp := by dsimp only [State.queueControl]
@[simp] theorem queueControl_serving (f : FrameBody) : (s.queueControl f).serving = s.serving := by dsimp only [State.queueControl]
@[simp] theorem queueControl_turn (f : FrameBody) : (s.queueControl f).turn = s.turn := by dsimp only [State.queueControl]
@[simp] theorem queueControl_notices (f : FrameBody) : (s.queueControl f).notices = s.notices := by dsimp only [State.queueControl]
@[simp] theorem queueControl_events (f : FrameBody) : (s.queueControl f).events = s.events := by dsimp only [State.queueControl]
@[simp] theorem queueControl_eventOverflow (f : FrameBody) : (s.queueControl f).eventOverflow = s.eventOverflow := by dsimp only [State.queueControl]
@[simp] theorem queueControl_pending (f : FrameBody) : (s.queueControl f).pending = s.pending := by dsimp only [State.queueControl]

/-! ### unqueueControl -/

@[simp] theorem unqueueControl_station (f : FrameBody) : (s.unqueueControl f).station = s.station := by dsimp only [State.unqueueControl]
@[simp] theorem unqueueControl_leavePending (f : FrameBody) : (s.unqueueControl f).leavePending = s.leavePending := by dsimp only [State.unqueueControl]
@[simp] theorem unqueueControl_openFailures (f : FrameBody) : (s.unqueueControl f).openFailures = s.openFailures := by dsimp only [State.unqueueControl]
@[simp] theorem unqueueControl_profile (f : FrameBody) : (s.unqueueControl f).profile = s.profile := by dsimp only [State.unqueueControl]
@[simp] theorem unqueueControl_windows (f : FrameBody) : (s.unqueueControl f).windows = s.windows := by dsimp only [State.unqueueControl]
@[simp] theorem unqueueControl_store (f : FrameBody) : (s.unqueueControl f).store = s.store := by dsimp only [State.unqueueControl]
@[simp] theorem unqueueControl_initPass (f : FrameBody) : (s.unqueueControl f).initPass = s.initPass := by dsimp only [State.unqueueControl]
@[simp] theorem unqueueControl_frameClaims (f : FrameBody) : (s.unqueueControl f).frameClaims = s.frameClaims := by dsimp only [State.unqueueControl]
@[simp] theorem unqueueControl_copyRead (f : FrameBody) : (s.unqueueControl f).copyRead = s.copyRead := by dsimp only [State.unqueueControl]
@[simp] theorem unqueueControl_hostClaim (f : FrameBody) : (s.unqueueControl f).hostClaim = s.hostClaim := by dsimp only [State.unqueueControl]
@[simp] theorem unqueueControl_busResponse (f : FrameBody) : (s.unqueueControl f).busResponse = s.busResponse := by dsimp only [State.unqueueControl]
@[simp] theorem unqueueControl_region (f : FrameBody) : (s.unqueueControl f).region = s.region := by dsimp only [State.unqueueControl]
@[simp] theorem unqueueControl_completion (f : FrameBody) : (s.unqueueControl f).completion = s.completion := by dsimp only [State.unqueueControl]
@[simp] theorem unqueueControl_inFlight (f : FrameBody) : (s.unqueueControl f).inFlight = s.inFlight := by dsimp only [State.unqueueControl]
@[simp] theorem unqueueControl_transmitter (f : FrameBody) : (s.unqueueControl f).transmitter = s.transmitter := by dsimp only [State.unqueueControl]
@[simp] theorem unqueueControl_receiver (f : FrameBody) : (s.unqueueControl f).receiver = s.receiver := by dsimp only [State.unqueueControl]
@[simp] theorem unqueueControl_clock (f : FrameBody) : (s.unqueueControl f).clock = s.clock := by dsimp only [State.unqueueControl]
@[simp] theorem unqueueControl_roster (f : FrameBody) : (s.unqueueControl f).roster = s.roster := by dsimp only [State.unqueueControl]
@[simp] theorem unqueueControl_outbound (f : FrameBody) : (s.unqueueControl f).outbound = s.outbound := by dsimp only [State.unqueueControl]
@[simp] theorem unqueueControl_filler (f : FrameBody) : (s.unqueueControl f).filler = s.filler := by dsimp only [State.unqueueControl]
@[simp] theorem unqueueControl_lastOpened (f : FrameBody) : (s.unqueueControl f).lastOpened = s.lastOpened := by dsimp only [State.unqueueControl]
@[simp] theorem unqueueControl_account (f : FrameBody) : (s.unqueueControl f).account = s.account := by dsimp only [State.unqueueControl]
@[simp] theorem unqueueControl_resync (f : FrameBody) : (s.unqueueControl f).resync = s.resync := by dsimp only [State.unqueueControl]
@[simp] theorem unqueueControl_catchUp (f : FrameBody) : (s.unqueueControl f).catchUp = s.catchUp := by dsimp only [State.unqueueControl]
@[simp] theorem unqueueControl_serving (f : FrameBody) : (s.unqueueControl f).serving = s.serving := by dsimp only [State.unqueueControl]
@[simp] theorem unqueueControl_turn (f : FrameBody) : (s.unqueueControl f).turn = s.turn := by dsimp only [State.unqueueControl]
@[simp] theorem unqueueControl_notices (f : FrameBody) : (s.unqueueControl f).notices = s.notices := by dsimp only [State.unqueueControl]
@[simp] theorem unqueueControl_events (f : FrameBody) : (s.unqueueControl f).events = s.events := by dsimp only [State.unqueueControl]
@[simp] theorem unqueueControl_eventOverflow (f : FrameBody) : (s.unqueueControl f).eventOverflow = s.eventOverflow := by dsimp only [State.unqueueControl]
@[simp] theorem unqueueControl_pending (f : FrameBody) : (s.unqueueControl f).pending = s.pending := by dsimp only [State.unqueueControl]

/-! ### appendOutbound -/

@[simp] theorem appendOutbound_station (e : OutboundEntry) : (s.appendOutbound e).station = s.station := by dsimp only [State.appendOutbound]
@[simp] theorem appendOutbound_leavePending (e : OutboundEntry) : (s.appendOutbound e).leavePending = s.leavePending := by dsimp only [State.appendOutbound]
@[simp] theorem appendOutbound_openFailures (e : OutboundEntry) : (s.appendOutbound e).openFailures = s.openFailures := by dsimp only [State.appendOutbound]
@[simp] theorem appendOutbound_profile (e : OutboundEntry) : (s.appendOutbound e).profile = s.profile := by dsimp only [State.appendOutbound]
@[simp] theorem appendOutbound_windows (e : OutboundEntry) : (s.appendOutbound e).windows = s.windows := by dsimp only [State.appendOutbound]
@[simp] theorem appendOutbound_store (e : OutboundEntry) : (s.appendOutbound e).store = s.store := by dsimp only [State.appendOutbound]
@[simp] theorem appendOutbound_initPass (e : OutboundEntry) : (s.appendOutbound e).initPass = s.initPass := by dsimp only [State.appendOutbound]
@[simp] theorem appendOutbound_frameClaims (e : OutboundEntry) : (s.appendOutbound e).frameClaims = s.frameClaims := by dsimp only [State.appendOutbound]
@[simp] theorem appendOutbound_copyRead (e : OutboundEntry) : (s.appendOutbound e).copyRead = s.copyRead := by dsimp only [State.appendOutbound]
@[simp] theorem appendOutbound_hostClaim (e : OutboundEntry) : (s.appendOutbound e).hostClaim = s.hostClaim := by dsimp only [State.appendOutbound]
@[simp] theorem appendOutbound_busResponse (e : OutboundEntry) : (s.appendOutbound e).busResponse = s.busResponse := by dsimp only [State.appendOutbound]
@[simp] theorem appendOutbound_region (e : OutboundEntry) : (s.appendOutbound e).region = s.region := by dsimp only [State.appendOutbound]
@[simp] theorem appendOutbound_completion (e : OutboundEntry) : (s.appendOutbound e).completion = s.completion := by dsimp only [State.appendOutbound]
@[simp] theorem appendOutbound_inFlight (e : OutboundEntry) : (s.appendOutbound e).inFlight = s.inFlight := by dsimp only [State.appendOutbound]
@[simp] theorem appendOutbound_transmitter (e : OutboundEntry) : (s.appendOutbound e).transmitter = s.transmitter := by dsimp only [State.appendOutbound]
@[simp] theorem appendOutbound_receiver (e : OutboundEntry) : (s.appendOutbound e).receiver = s.receiver := by dsimp only [State.appendOutbound]
@[simp] theorem appendOutbound_clock (e : OutboundEntry) : (s.appendOutbound e).clock = s.clock := by dsimp only [State.appendOutbound]
@[simp] theorem appendOutbound_roster (e : OutboundEntry) : (s.appendOutbound e).roster = s.roster := by dsimp only [State.appendOutbound]
@[simp] theorem appendOutbound_control (e : OutboundEntry) : (s.appendOutbound e).control = s.control := by dsimp only [State.appendOutbound]
@[simp] theorem appendOutbound_filler (e : OutboundEntry) : (s.appendOutbound e).filler = s.filler := by dsimp only [State.appendOutbound]
@[simp] theorem appendOutbound_lastOpened (e : OutboundEntry) : (s.appendOutbound e).lastOpened = s.lastOpened := by dsimp only [State.appendOutbound]
@[simp] theorem appendOutbound_account (e : OutboundEntry) : (s.appendOutbound e).account = s.account := by dsimp only [State.appendOutbound]
@[simp] theorem appendOutbound_resync (e : OutboundEntry) : (s.appendOutbound e).resync = s.resync := by dsimp only [State.appendOutbound]
@[simp] theorem appendOutbound_catchUp (e : OutboundEntry) : (s.appendOutbound e).catchUp = s.catchUp := by dsimp only [State.appendOutbound]
@[simp] theorem appendOutbound_serving (e : OutboundEntry) : (s.appendOutbound e).serving = s.serving := by dsimp only [State.appendOutbound]
@[simp] theorem appendOutbound_turn (e : OutboundEntry) : (s.appendOutbound e).turn = s.turn := by dsimp only [State.appendOutbound]
@[simp] theorem appendOutbound_notices (e : OutboundEntry) : (s.appendOutbound e).notices = s.notices := by dsimp only [State.appendOutbound]
@[simp] theorem appendOutbound_events (e : OutboundEntry) : (s.appendOutbound e).events = s.events := by dsimp only [State.appendOutbound]
@[simp] theorem appendOutbound_eventOverflow (e : OutboundEntry) : (s.appendOutbound e).eventOverflow = s.eventOverflow := by dsimp only [State.appendOutbound]
@[simp] theorem appendOutbound_pending (e : OutboundEntry) : (s.appendOutbound e).pending = s.pending := by dsimp only [State.appendOutbound]

/-! ### joinResync -/

@[simp] theorem joinResync_station (w : WindowNo) : (s.joinResync w).station = s.station := by dsimp only [State.joinResync]
@[simp] theorem joinResync_leavePending (w : WindowNo) : (s.joinResync w).leavePending = s.leavePending := by dsimp only [State.joinResync]
@[simp] theorem joinResync_openFailures (w : WindowNo) : (s.joinResync w).openFailures = s.openFailures := by dsimp only [State.joinResync]
@[simp] theorem joinResync_profile (w : WindowNo) : (s.joinResync w).profile = s.profile := by dsimp only [State.joinResync]
@[simp] theorem joinResync_windows (w : WindowNo) : (s.joinResync w).windows = s.windows := by dsimp only [State.joinResync]
@[simp] theorem joinResync_store (w : WindowNo) : (s.joinResync w).store = s.store := by dsimp only [State.joinResync]
@[simp] theorem joinResync_initPass (w : WindowNo) : (s.joinResync w).initPass = s.initPass := by dsimp only [State.joinResync]
@[simp] theorem joinResync_frameClaims (w : WindowNo) : (s.joinResync w).frameClaims = s.frameClaims := by dsimp only [State.joinResync]
@[simp] theorem joinResync_copyRead (w : WindowNo) : (s.joinResync w).copyRead = s.copyRead := by dsimp only [State.joinResync]
@[simp] theorem joinResync_hostClaim (w : WindowNo) : (s.joinResync w).hostClaim = s.hostClaim := by dsimp only [State.joinResync]
@[simp] theorem joinResync_busResponse (w : WindowNo) : (s.joinResync w).busResponse = s.busResponse := by dsimp only [State.joinResync]
@[simp] theorem joinResync_region (w : WindowNo) : (s.joinResync w).region = s.region := by dsimp only [State.joinResync]
@[simp] theorem joinResync_completion (w : WindowNo) : (s.joinResync w).completion = s.completion := by dsimp only [State.joinResync]
@[simp] theorem joinResync_inFlight (w : WindowNo) : (s.joinResync w).inFlight = s.inFlight := by dsimp only [State.joinResync]
@[simp] theorem joinResync_transmitter (w : WindowNo) : (s.joinResync w).transmitter = s.transmitter := by dsimp only [State.joinResync]
@[simp] theorem joinResync_receiver (w : WindowNo) : (s.joinResync w).receiver = s.receiver := by dsimp only [State.joinResync]
@[simp] theorem joinResync_clock (w : WindowNo) : (s.joinResync w).clock = s.clock := by dsimp only [State.joinResync]
@[simp] theorem joinResync_roster (w : WindowNo) : (s.joinResync w).roster = s.roster := by dsimp only [State.joinResync]
@[simp] theorem joinResync_outbound (w : WindowNo) : (s.joinResync w).outbound = s.outbound := by dsimp only [State.joinResync]
@[simp] theorem joinResync_control (w : WindowNo) : (s.joinResync w).control = s.control := by dsimp only [State.joinResync]
@[simp] theorem joinResync_filler (w : WindowNo) : (s.joinResync w).filler = s.filler := by dsimp only [State.joinResync]
@[simp] theorem joinResync_lastOpened (w : WindowNo) : (s.joinResync w).lastOpened = s.lastOpened := by dsimp only [State.joinResync]
@[simp] theorem joinResync_account (w : WindowNo) : (s.joinResync w).account = s.account := by dsimp only [State.joinResync]
@[simp] theorem joinResync_catchUp (w : WindowNo) : (s.joinResync w).catchUp = s.catchUp := by dsimp only [State.joinResync]
@[simp] theorem joinResync_serving (w : WindowNo) : (s.joinResync w).serving = s.serving := by dsimp only [State.joinResync]
@[simp] theorem joinResync_turn (w : WindowNo) : (s.joinResync w).turn = s.turn := by dsimp only [State.joinResync]
@[simp] theorem joinResync_notices (w : WindowNo) : (s.joinResync w).notices = s.notices := by dsimp only [State.joinResync]
@[simp] theorem joinResync_events (w : WindowNo) : (s.joinResync w).events = s.events := by dsimp only [State.joinResync]
@[simp] theorem joinResync_eventOverflow (w : WindowNo) : (s.joinResync w).eventOverflow = s.eventOverflow := by dsimp only [State.joinResync]
@[simp] theorem joinResync_pending (w : WindowNo) : (s.joinResync w).pending = s.pending := by dsimp only [State.joinResync]

/-! ### enter -/

@[simp] theorem enter_leavePending (next : StationState) (cause : StationCause) (n : Nat) : (s.enter next cause n).leavePending = s.leavePending := by dsimp only [State.enter, State.event, State.appendEvent]
@[simp] theorem enter_openFailures (next : StationState) (cause : StationCause) (n : Nat) : (s.enter next cause n).openFailures = s.openFailures := by dsimp only [State.enter, State.event, State.appendEvent]
@[simp] theorem enter_profile (next : StationState) (cause : StationCause) (n : Nat) : (s.enter next cause n).profile = s.profile := by dsimp only [State.enter, State.event, State.appendEvent]
@[simp] theorem enter_windows (next : StationState) (cause : StationCause) (n : Nat) : (s.enter next cause n).windows = s.windows := by dsimp only [State.enter, State.event, State.appendEvent]
@[simp] theorem enter_store (next : StationState) (cause : StationCause) (n : Nat) : (s.enter next cause n).store = s.store := by dsimp only [State.enter, State.event, State.appendEvent]
@[simp] theorem enter_initPass (next : StationState) (cause : StationCause) (n : Nat) : (s.enter next cause n).initPass = s.initPass := by dsimp only [State.enter, State.event, State.appendEvent]
@[simp] theorem enter_frameClaims (next : StationState) (cause : StationCause) (n : Nat) : (s.enter next cause n).frameClaims = s.frameClaims := by dsimp only [State.enter, State.event, State.appendEvent]
@[simp] theorem enter_copyRead (next : StationState) (cause : StationCause) (n : Nat) : (s.enter next cause n).copyRead = s.copyRead := by dsimp only [State.enter, State.event, State.appendEvent]
@[simp] theorem enter_hostClaim (next : StationState) (cause : StationCause) (n : Nat) : (s.enter next cause n).hostClaim = s.hostClaim := by dsimp only [State.enter, State.event, State.appendEvent]
@[simp] theorem enter_busResponse (next : StationState) (cause : StationCause) (n : Nat) : (s.enter next cause n).busResponse = s.busResponse := by dsimp only [State.enter, State.event, State.appendEvent]
@[simp] theorem enter_region (next : StationState) (cause : StationCause) (n : Nat) : (s.enter next cause n).region = s.region := by dsimp only [State.enter, State.event, State.appendEvent]
@[simp] theorem enter_completion (next : StationState) (cause : StationCause) (n : Nat) : (s.enter next cause n).completion = s.completion := by dsimp only [State.enter, State.event, State.appendEvent]
@[simp] theorem enter_inFlight (next : StationState) (cause : StationCause) (n : Nat) : (s.enter next cause n).inFlight = s.inFlight := by dsimp only [State.enter, State.event, State.appendEvent]
@[simp] theorem enter_transmitter (next : StationState) (cause : StationCause) (n : Nat) : (s.enter next cause n).transmitter = s.transmitter := by dsimp only [State.enter, State.event, State.appendEvent]
@[simp] theorem enter_receiver (next : StationState) (cause : StationCause) (n : Nat) : (s.enter next cause n).receiver = s.receiver := by dsimp only [State.enter, State.event, State.appendEvent]
@[simp] theorem enter_clock (next : StationState) (cause : StationCause) (n : Nat) : (s.enter next cause n).clock = s.clock := by dsimp only [State.enter, State.event, State.appendEvent]
@[simp] theorem enter_roster (next : StationState) (cause : StationCause) (n : Nat) : (s.enter next cause n).roster = s.roster := by dsimp only [State.enter, State.event, State.appendEvent]
@[simp] theorem enter_outbound (next : StationState) (cause : StationCause) (n : Nat) : (s.enter next cause n).outbound = s.outbound := by dsimp only [State.enter, State.event, State.appendEvent]
@[simp] theorem enter_control (next : StationState) (cause : StationCause) (n : Nat) : (s.enter next cause n).control = s.control := by dsimp only [State.enter, State.event, State.appendEvent]
@[simp] theorem enter_filler (next : StationState) (cause : StationCause) (n : Nat) : (s.enter next cause n).filler = s.filler := by dsimp only [State.enter, State.event, State.appendEvent]
@[simp] theorem enter_lastOpened (next : StationState) (cause : StationCause) (n : Nat) : (s.enter next cause n).lastOpened = s.lastOpened := by dsimp only [State.enter, State.event, State.appendEvent]
@[simp] theorem enter_account (next : StationState) (cause : StationCause) (n : Nat) : (s.enter next cause n).account = s.account := by dsimp only [State.enter, State.event, State.appendEvent]
@[simp] theorem enter_resync (next : StationState) (cause : StationCause) (n : Nat) : (s.enter next cause n).resync = s.resync := by dsimp only [State.enter, State.event, State.appendEvent]
@[simp] theorem enter_catchUp (next : StationState) (cause : StationCause) (n : Nat) : (s.enter next cause n).catchUp = s.catchUp := by dsimp only [State.enter, State.event, State.appendEvent]
@[simp] theorem enter_serving (next : StationState) (cause : StationCause) (n : Nat) : (s.enter next cause n).serving = s.serving := by dsimp only [State.enter, State.event, State.appendEvent]
@[simp] theorem enter_turn (next : StationState) (cause : StationCause) (n : Nat) : (s.enter next cause n).turn = s.turn := by dsimp only [State.enter, State.event, State.appendEvent]
@[simp] theorem enter_notices (next : StationState) (cause : StationCause) (n : Nat) : (s.enter next cause n).notices = s.notices := by dsimp only [State.enter, State.event, State.appendEvent]
@[simp] theorem enter_pending (next : StationState) (cause : StationCause) (n : Nat) : (s.enter next cause n).pending = s.pending := by dsimp only [State.enter, State.event, State.appendEvent]

/-! ### fillCommand -/

@[simp] theorem fillCommand_station (code : Nat) (ops : List Word) (tag : Word) : (s.fillCommand code ops tag).station = s.station := by dsimp only [State.fillCommand]
@[simp] theorem fillCommand_leavePending (code : Nat) (ops : List Word) (tag : Word) : (s.fillCommand code ops tag).leavePending = s.leavePending := by dsimp only [State.fillCommand]
@[simp] theorem fillCommand_openFailures (code : Nat) (ops : List Word) (tag : Word) : (s.fillCommand code ops tag).openFailures = s.openFailures := by dsimp only [State.fillCommand]
@[simp] theorem fillCommand_profile (code : Nat) (ops : List Word) (tag : Word) : (s.fillCommand code ops tag).profile = s.profile := by dsimp only [State.fillCommand]
@[simp] theorem fillCommand_windows (code : Nat) (ops : List Word) (tag : Word) : (s.fillCommand code ops tag).windows = s.windows := by dsimp only [State.fillCommand]
@[simp] theorem fillCommand_store (code : Nat) (ops : List Word) (tag : Word) : (s.fillCommand code ops tag).store = s.store := by dsimp only [State.fillCommand]
@[simp] theorem fillCommand_initPass (code : Nat) (ops : List Word) (tag : Word) : (s.fillCommand code ops tag).initPass = s.initPass := by dsimp only [State.fillCommand]
@[simp] theorem fillCommand_frameClaims (code : Nat) (ops : List Word) (tag : Word) : (s.fillCommand code ops tag).frameClaims = s.frameClaims := by dsimp only [State.fillCommand]
@[simp] theorem fillCommand_copyRead (code : Nat) (ops : List Word) (tag : Word) : (s.fillCommand code ops tag).copyRead = s.copyRead := by dsimp only [State.fillCommand]
@[simp] theorem fillCommand_hostClaim (code : Nat) (ops : List Word) (tag : Word) : (s.fillCommand code ops tag).hostClaim = s.hostClaim := by dsimp only [State.fillCommand]
@[simp] theorem fillCommand_busResponse (code : Nat) (ops : List Word) (tag : Word) : (s.fillCommand code ops tag).busResponse = s.busResponse := by dsimp only [State.fillCommand]
@[simp] theorem fillCommand_completion (code : Nat) (ops : List Word) (tag : Word) : (s.fillCommand code ops tag).completion = s.completion := by dsimp only [State.fillCommand]
@[simp] theorem fillCommand_inFlight (code : Nat) (ops : List Word) (tag : Word) : (s.fillCommand code ops tag).inFlight = s.inFlight := by dsimp only [State.fillCommand]
@[simp] theorem fillCommand_transmitter (code : Nat) (ops : List Word) (tag : Word) : (s.fillCommand code ops tag).transmitter = s.transmitter := by dsimp only [State.fillCommand]
@[simp] theorem fillCommand_receiver (code : Nat) (ops : List Word) (tag : Word) : (s.fillCommand code ops tag).receiver = s.receiver := by dsimp only [State.fillCommand]
@[simp] theorem fillCommand_clock (code : Nat) (ops : List Word) (tag : Word) : (s.fillCommand code ops tag).clock = s.clock := by dsimp only [State.fillCommand]
@[simp] theorem fillCommand_roster (code : Nat) (ops : List Word) (tag : Word) : (s.fillCommand code ops tag).roster = s.roster := by dsimp only [State.fillCommand]
@[simp] theorem fillCommand_outbound (code : Nat) (ops : List Word) (tag : Word) : (s.fillCommand code ops tag).outbound = s.outbound := by dsimp only [State.fillCommand]
@[simp] theorem fillCommand_control (code : Nat) (ops : List Word) (tag : Word) : (s.fillCommand code ops tag).control = s.control := by dsimp only [State.fillCommand]
@[simp] theorem fillCommand_filler (code : Nat) (ops : List Word) (tag : Word) : (s.fillCommand code ops tag).filler = s.filler := by dsimp only [State.fillCommand]
@[simp] theorem fillCommand_lastOpened (code : Nat) (ops : List Word) (tag : Word) : (s.fillCommand code ops tag).lastOpened = s.lastOpened := by dsimp only [State.fillCommand]
@[simp] theorem fillCommand_account (code : Nat) (ops : List Word) (tag : Word) : (s.fillCommand code ops tag).account = s.account := by dsimp only [State.fillCommand]
@[simp] theorem fillCommand_resync (code : Nat) (ops : List Word) (tag : Word) : (s.fillCommand code ops tag).resync = s.resync := by dsimp only [State.fillCommand]
@[simp] theorem fillCommand_catchUp (code : Nat) (ops : List Word) (tag : Word) : (s.fillCommand code ops tag).catchUp = s.catchUp := by dsimp only [State.fillCommand]
@[simp] theorem fillCommand_serving (code : Nat) (ops : List Word) (tag : Word) : (s.fillCommand code ops tag).serving = s.serving := by dsimp only [State.fillCommand]
@[simp] theorem fillCommand_turn (code : Nat) (ops : List Word) (tag : Word) : (s.fillCommand code ops tag).turn = s.turn := by dsimp only [State.fillCommand]
@[simp] theorem fillCommand_notices (code : Nat) (ops : List Word) (tag : Word) : (s.fillCommand code ops tag).notices = s.notices := by dsimp only [State.fillCommand]
@[simp] theorem fillCommand_events (code : Nat) (ops : List Word) (tag : Word) : (s.fillCommand code ops tag).events = s.events := by dsimp only [State.fillCommand]
@[simp] theorem fillCommand_eventOverflow (code : Nat) (ops : List Word) (tag : Word) : (s.fillCommand code ops tag).eventOverflow = s.eventOverflow := by dsimp only [State.fillCommand]
@[simp] theorem fillCommand_pending (code : Nat) (ops : List Word) (tag : Word) : (s.fillCommand code ops tag).pending = s.pending := by dsimp only [State.fillCommand]

/-! ### setReceiver -/

@[simp] theorem setReceiver_station (r : Receiver) : (s.setReceiver r).station = s.station := by dsimp only [State.setReceiver]
@[simp] theorem setReceiver_leavePending (r : Receiver) : (s.setReceiver r).leavePending = s.leavePending := by dsimp only [State.setReceiver]
@[simp] theorem setReceiver_openFailures (r : Receiver) : (s.setReceiver r).openFailures = s.openFailures := by dsimp only [State.setReceiver]
@[simp] theorem setReceiver_profile (r : Receiver) : (s.setReceiver r).profile = s.profile := by dsimp only [State.setReceiver]
@[simp] theorem setReceiver_windows (r : Receiver) : (s.setReceiver r).windows = s.windows := by dsimp only [State.setReceiver]
@[simp] theorem setReceiver_store (r : Receiver) : (s.setReceiver r).store = s.store := by dsimp only [State.setReceiver]
@[simp] theorem setReceiver_initPass (r : Receiver) : (s.setReceiver r).initPass = s.initPass := by dsimp only [State.setReceiver]
@[simp] theorem setReceiver_frameClaims (r : Receiver) : (s.setReceiver r).frameClaims = s.frameClaims := by dsimp only [State.setReceiver]
@[simp] theorem setReceiver_copyRead (r : Receiver) : (s.setReceiver r).copyRead = s.copyRead := by dsimp only [State.setReceiver]
@[simp] theorem setReceiver_hostClaim (r : Receiver) : (s.setReceiver r).hostClaim = s.hostClaim := by dsimp only [State.setReceiver]
@[simp] theorem setReceiver_busResponse (r : Receiver) : (s.setReceiver r).busResponse = s.busResponse := by dsimp only [State.setReceiver]
@[simp] theorem setReceiver_region (r : Receiver) : (s.setReceiver r).region = s.region := by dsimp only [State.setReceiver]
@[simp] theorem setReceiver_completion (r : Receiver) : (s.setReceiver r).completion = s.completion := by dsimp only [State.setReceiver]
@[simp] theorem setReceiver_inFlight (r : Receiver) : (s.setReceiver r).inFlight = s.inFlight := by dsimp only [State.setReceiver]
@[simp] theorem setReceiver_transmitter (r : Receiver) : (s.setReceiver r).transmitter = s.transmitter := by dsimp only [State.setReceiver]
@[simp] theorem setReceiver_clock (r : Receiver) : (s.setReceiver r).clock = s.clock := by dsimp only [State.setReceiver]
@[simp] theorem setReceiver_roster (r : Receiver) : (s.setReceiver r).roster = s.roster := by dsimp only [State.setReceiver]
@[simp] theorem setReceiver_outbound (r : Receiver) : (s.setReceiver r).outbound = s.outbound := by dsimp only [State.setReceiver]
@[simp] theorem setReceiver_control (r : Receiver) : (s.setReceiver r).control = s.control := by dsimp only [State.setReceiver]
@[simp] theorem setReceiver_filler (r : Receiver) : (s.setReceiver r).filler = s.filler := by dsimp only [State.setReceiver]
@[simp] theorem setReceiver_lastOpened (r : Receiver) : (s.setReceiver r).lastOpened = s.lastOpened := by dsimp only [State.setReceiver]
@[simp] theorem setReceiver_account (r : Receiver) : (s.setReceiver r).account = s.account := by dsimp only [State.setReceiver]
@[simp] theorem setReceiver_resync (r : Receiver) : (s.setReceiver r).resync = s.resync := by dsimp only [State.setReceiver]
@[simp] theorem setReceiver_catchUp (r : Receiver) : (s.setReceiver r).catchUp = s.catchUp := by dsimp only [State.setReceiver]
@[simp] theorem setReceiver_serving (r : Receiver) : (s.setReceiver r).serving = s.serving := by dsimp only [State.setReceiver]
@[simp] theorem setReceiver_turn (r : Receiver) : (s.setReceiver r).turn = s.turn := by dsimp only [State.setReceiver]
@[simp] theorem setReceiver_notices (r : Receiver) : (s.setReceiver r).notices = s.notices := by dsimp only [State.setReceiver]
@[simp] theorem setReceiver_events (r : Receiver) : (s.setReceiver r).events = s.events := by dsimp only [State.setReceiver]
@[simp] theorem setReceiver_eventOverflow (r : Receiver) : (s.setReceiver r).eventOverflow = s.eventOverflow := by dsimp only [State.setReceiver]
@[simp] theorem setReceiver_pending (r : Receiver) : (s.setReceiver r).pending = s.pending := by dsimp only [State.setReceiver]

/-! ### setFilling -/

@[simp] theorem setFilling_station (f : Filling) : (s.setFilling f).station = s.station := by dsimp only [State.setFilling]
@[simp] theorem setFilling_leavePending (f : Filling) : (s.setFilling f).leavePending = s.leavePending := by dsimp only [State.setFilling]
@[simp] theorem setFilling_openFailures (f : Filling) : (s.setFilling f).openFailures = s.openFailures := by dsimp only [State.setFilling]
@[simp] theorem setFilling_profile (f : Filling) : (s.setFilling f).profile = s.profile := by dsimp only [State.setFilling]
@[simp] theorem setFilling_windows (f : Filling) : (s.setFilling f).windows = s.windows := by dsimp only [State.setFilling]
@[simp] theorem setFilling_store (f : Filling) : (s.setFilling f).store = s.store := by dsimp only [State.setFilling]
@[simp] theorem setFilling_initPass (f : Filling) : (s.setFilling f).initPass = s.initPass := by dsimp only [State.setFilling]
@[simp] theorem setFilling_frameClaims (f : Filling) : (s.setFilling f).frameClaims = s.frameClaims := by dsimp only [State.setFilling]
@[simp] theorem setFilling_copyRead (f : Filling) : (s.setFilling f).copyRead = s.copyRead := by dsimp only [State.setFilling]
@[simp] theorem setFilling_hostClaim (f : Filling) : (s.setFilling f).hostClaim = s.hostClaim := by dsimp only [State.setFilling]
@[simp] theorem setFilling_busResponse (f : Filling) : (s.setFilling f).busResponse = s.busResponse := by dsimp only [State.setFilling]
@[simp] theorem setFilling_region (f : Filling) : (s.setFilling f).region = s.region := by dsimp only [State.setFilling]
@[simp] theorem setFilling_completion (f : Filling) : (s.setFilling f).completion = s.completion := by dsimp only [State.setFilling]
@[simp] theorem setFilling_inFlight (f : Filling) : (s.setFilling f).inFlight = s.inFlight := by dsimp only [State.setFilling]
@[simp] theorem setFilling_transmitter (f : Filling) : (s.setFilling f).transmitter = s.transmitter := by dsimp only [State.setFilling]
@[simp] theorem setFilling_receiver (f : Filling) : (s.setFilling f).receiver = s.receiver := by dsimp only [State.setFilling]
@[simp] theorem setFilling_clock (f : Filling) : (s.setFilling f).clock = s.clock := by dsimp only [State.setFilling]
@[simp] theorem setFilling_roster (f : Filling) : (s.setFilling f).roster = s.roster := by dsimp only [State.setFilling]
@[simp] theorem setFilling_outbound (f : Filling) : (s.setFilling f).outbound = s.outbound := by dsimp only [State.setFilling]
@[simp] theorem setFilling_control (f : Filling) : (s.setFilling f).control = s.control := by dsimp only [State.setFilling]
@[simp] theorem setFilling_lastOpened (f : Filling) : (s.setFilling f).lastOpened = s.lastOpened := by dsimp only [State.setFilling]
@[simp] theorem setFilling_account (f : Filling) : (s.setFilling f).account = s.account := by dsimp only [State.setFilling]
@[simp] theorem setFilling_resync (f : Filling) : (s.setFilling f).resync = s.resync := by dsimp only [State.setFilling]
@[simp] theorem setFilling_catchUp (f : Filling) : (s.setFilling f).catchUp = s.catchUp := by dsimp only [State.setFilling]
@[simp] theorem setFilling_serving (f : Filling) : (s.setFilling f).serving = s.serving := by dsimp only [State.setFilling]
@[simp] theorem setFilling_turn (f : Filling) : (s.setFilling f).turn = s.turn := by dsimp only [State.setFilling]
@[simp] theorem setFilling_notices (f : Filling) : (s.setFilling f).notices = s.notices := by dsimp only [State.setFilling]
@[simp] theorem setFilling_events (f : Filling) : (s.setFilling f).events = s.events := by dsimp only [State.setFilling]
@[simp] theorem setFilling_eventOverflow (f : Filling) : (s.setFilling f).eventOverflow = s.eventOverflow := by dsimp only [State.setFilling]
@[simp] theorem setFilling_pending (f : Filling) : (s.setFilling f).pending = s.pending := by dsimp only [State.setFilling]

/-! ### reach -/

@[simp] theorem reach_station (position : Nat) : (s.reach position).station = s.station := by dsimp only [State.reach]
@[simp] theorem reach_leavePending (position : Nat) : (s.reach position).leavePending = s.leavePending := by dsimp only [State.reach]
@[simp] theorem reach_openFailures (position : Nat) : (s.reach position).openFailures = s.openFailures := by dsimp only [State.reach]
@[simp] theorem reach_profile (position : Nat) : (s.reach position).profile = s.profile := by dsimp only [State.reach]
@[simp] theorem reach_windows (position : Nat) : (s.reach position).windows = s.windows := by dsimp only [State.reach]
@[simp] theorem reach_store (position : Nat) : (s.reach position).store = s.store := by dsimp only [State.reach]
@[simp] theorem reach_initPass (position : Nat) : (s.reach position).initPass = s.initPass := by dsimp only [State.reach]
@[simp] theorem reach_frameClaims (position : Nat) : (s.reach position).frameClaims = s.frameClaims := by dsimp only [State.reach]
@[simp] theorem reach_copyRead (position : Nat) : (s.reach position).copyRead = s.copyRead := by dsimp only [State.reach]
@[simp] theorem reach_hostClaim (position : Nat) : (s.reach position).hostClaim = s.hostClaim := by dsimp only [State.reach]
@[simp] theorem reach_busResponse (position : Nat) : (s.reach position).busResponse = s.busResponse := by dsimp only [State.reach]
@[simp] theorem reach_region (position : Nat) : (s.reach position).region = s.region := by dsimp only [State.reach]
@[simp] theorem reach_completion (position : Nat) : (s.reach position).completion = s.completion := by dsimp only [State.reach]
@[simp] theorem reach_inFlight (position : Nat) : (s.reach position).inFlight = s.inFlight := by dsimp only [State.reach]
@[simp] theorem reach_transmitter (position : Nat) : (s.reach position).transmitter = s.transmitter := by dsimp only [State.reach]
@[simp] theorem reach_receiver (position : Nat) : (s.reach position).receiver = s.receiver := by dsimp only [State.reach]
@[simp] theorem reach_roster (position : Nat) : (s.reach position).roster = s.roster := by dsimp only [State.reach]
@[simp] theorem reach_outbound (position : Nat) : (s.reach position).outbound = s.outbound := by dsimp only [State.reach]
@[simp] theorem reach_control (position : Nat) : (s.reach position).control = s.control := by dsimp only [State.reach]
@[simp] theorem reach_filler (position : Nat) : (s.reach position).filler = s.filler := by dsimp only [State.reach]
@[simp] theorem reach_lastOpened (position : Nat) : (s.reach position).lastOpened = s.lastOpened := by dsimp only [State.reach]
@[simp] theorem reach_account (position : Nat) : (s.reach position).account = s.account := by dsimp only [State.reach]
@[simp] theorem reach_resync (position : Nat) : (s.reach position).resync = s.resync := by dsimp only [State.reach]
@[simp] theorem reach_catchUp (position : Nat) : (s.reach position).catchUp = s.catchUp := by dsimp only [State.reach]
@[simp] theorem reach_serving (position : Nat) : (s.reach position).serving = s.serving := by dsimp only [State.reach]
@[simp] theorem reach_turn (position : Nat) : (s.reach position).turn = s.turn := by dsimp only [State.reach]
@[simp] theorem reach_notices (position : Nat) : (s.reach position).notices = s.notices := by dsimp only [State.reach]
@[simp] theorem reach_events (position : Nat) : (s.reach position).events = s.events := by dsimp only [State.reach]
@[simp] theorem reach_eventOverflow (position : Nat) : (s.reach position).eventOverflow = s.eventOverflow := by dsimp only [State.reach]
@[simp] theorem reach_pending (position : Nat) : (s.reach position).pending = s.pending := by dsimp only [State.reach]

/-! ### respond -/

@[simp] theorem respond_station (r : BusResponse) : (s.respond r).station = s.station := by dsimp only [State.respond]
@[simp] theorem respond_leavePending (r : BusResponse) : (s.respond r).leavePending = s.leavePending := by dsimp only [State.respond]
@[simp] theorem respond_openFailures (r : BusResponse) : (s.respond r).openFailures = s.openFailures := by dsimp only [State.respond]
@[simp] theorem respond_profile (r : BusResponse) : (s.respond r).profile = s.profile := by dsimp only [State.respond]
@[simp] theorem respond_windows (r : BusResponse) : (s.respond r).windows = s.windows := by dsimp only [State.respond]
@[simp] theorem respond_store (r : BusResponse) : (s.respond r).store = s.store := by dsimp only [State.respond]
@[simp] theorem respond_initPass (r : BusResponse) : (s.respond r).initPass = s.initPass := by dsimp only [State.respond]
@[simp] theorem respond_frameClaims (r : BusResponse) : (s.respond r).frameClaims = s.frameClaims := by dsimp only [State.respond]
@[simp] theorem respond_copyRead (r : BusResponse) : (s.respond r).copyRead = s.copyRead := by dsimp only [State.respond]
@[simp] theorem respond_hostClaim (r : BusResponse) : (s.respond r).hostClaim = s.hostClaim := by dsimp only [State.respond]
@[simp] theorem respond_region (r : BusResponse) : (s.respond r).region = s.region := by dsimp only [State.respond]
@[simp] theorem respond_completion (r : BusResponse) : (s.respond r).completion = s.completion := by dsimp only [State.respond]
@[simp] theorem respond_inFlight (r : BusResponse) : (s.respond r).inFlight = s.inFlight := by dsimp only [State.respond]
@[simp] theorem respond_transmitter (r : BusResponse) : (s.respond r).transmitter = s.transmitter := by dsimp only [State.respond]
@[simp] theorem respond_receiver (r : BusResponse) : (s.respond r).receiver = s.receiver := by dsimp only [State.respond]
@[simp] theorem respond_clock (r : BusResponse) : (s.respond r).clock = s.clock := by dsimp only [State.respond]
@[simp] theorem respond_roster (r : BusResponse) : (s.respond r).roster = s.roster := by dsimp only [State.respond]
@[simp] theorem respond_outbound (r : BusResponse) : (s.respond r).outbound = s.outbound := by dsimp only [State.respond]
@[simp] theorem respond_control (r : BusResponse) : (s.respond r).control = s.control := by dsimp only [State.respond]
@[simp] theorem respond_filler (r : BusResponse) : (s.respond r).filler = s.filler := by dsimp only [State.respond]
@[simp] theorem respond_lastOpened (r : BusResponse) : (s.respond r).lastOpened = s.lastOpened := by dsimp only [State.respond]
@[simp] theorem respond_account (r : BusResponse) : (s.respond r).account = s.account := by dsimp only [State.respond]
@[simp] theorem respond_resync (r : BusResponse) : (s.respond r).resync = s.resync := by dsimp only [State.respond]
@[simp] theorem respond_catchUp (r : BusResponse) : (s.respond r).catchUp = s.catchUp := by dsimp only [State.respond]
@[simp] theorem respond_serving (r : BusResponse) : (s.respond r).serving = s.serving := by dsimp only [State.respond]
@[simp] theorem respond_turn (r : BusResponse) : (s.respond r).turn = s.turn := by dsimp only [State.respond]
@[simp] theorem respond_notices (r : BusResponse) : (s.respond r).notices = s.notices := by dsimp only [State.respond]
@[simp] theorem respond_events (r : BusResponse) : (s.respond r).events = s.events := by dsimp only [State.respond]
@[simp] theorem respond_eventOverflow (r : BusResponse) : (s.respond r).eventOverflow = s.eventOverflow := by dsimp only [State.respond]
@[simp] theorem respond_pending (r : BusResponse) : (s.respond r).pending = s.pending := by dsimp only [State.respond]

/-! ### completeAs -/

@[simp] theorem completeAs_station (code tag : Word) (status : CompletionStatus) (result : Vector Word 16) : (s.completeAs code tag status result).station = s.station := by dsimp only [State.completeAs]
@[simp] theorem completeAs_leavePending (code tag : Word) (status : CompletionStatus) (result : Vector Word 16) : (s.completeAs code tag status result).leavePending = s.leavePending := by dsimp only [State.completeAs]
@[simp] theorem completeAs_openFailures (code tag : Word) (status : CompletionStatus) (result : Vector Word 16) : (s.completeAs code tag status result).openFailures = s.openFailures := by dsimp only [State.completeAs]
@[simp] theorem completeAs_profile (code tag : Word) (status : CompletionStatus) (result : Vector Word 16) : (s.completeAs code tag status result).profile = s.profile := by dsimp only [State.completeAs]
@[simp] theorem completeAs_windows (code tag : Word) (status : CompletionStatus) (result : Vector Word 16) : (s.completeAs code tag status result).windows = s.windows := by dsimp only [State.completeAs]
@[simp] theorem completeAs_store (code tag : Word) (status : CompletionStatus) (result : Vector Word 16) : (s.completeAs code tag status result).store = s.store := by dsimp only [State.completeAs]
@[simp] theorem completeAs_initPass (code tag : Word) (status : CompletionStatus) (result : Vector Word 16) : (s.completeAs code tag status result).initPass = s.initPass := by dsimp only [State.completeAs]
@[simp] theorem completeAs_frameClaims (code tag : Word) (status : CompletionStatus) (result : Vector Word 16) : (s.completeAs code tag status result).frameClaims = s.frameClaims := by dsimp only [State.completeAs]
@[simp] theorem completeAs_copyRead (code tag : Word) (status : CompletionStatus) (result : Vector Word 16) : (s.completeAs code tag status result).copyRead = s.copyRead := by dsimp only [State.completeAs]
@[simp] theorem completeAs_hostClaim (code tag : Word) (status : CompletionStatus) (result : Vector Word 16) : (s.completeAs code tag status result).hostClaim = s.hostClaim := by dsimp only [State.completeAs]
@[simp] theorem completeAs_busResponse (code tag : Word) (status : CompletionStatus) (result : Vector Word 16) : (s.completeAs code tag status result).busResponse = s.busResponse := by dsimp only [State.completeAs]
@[simp] theorem completeAs_region (code tag : Word) (status : CompletionStatus) (result : Vector Word 16) : (s.completeAs code tag status result).region = s.region := by dsimp only [State.completeAs]
@[simp] theorem completeAs_inFlight (code tag : Word) (status : CompletionStatus) (result : Vector Word 16) : (s.completeAs code tag status result).inFlight = s.inFlight := by dsimp only [State.completeAs]
@[simp] theorem completeAs_transmitter (code tag : Word) (status : CompletionStatus) (result : Vector Word 16) : (s.completeAs code tag status result).transmitter = s.transmitter := by dsimp only [State.completeAs]
@[simp] theorem completeAs_receiver (code tag : Word) (status : CompletionStatus) (result : Vector Word 16) : (s.completeAs code tag status result).receiver = s.receiver := by dsimp only [State.completeAs]
@[simp] theorem completeAs_clock (code tag : Word) (status : CompletionStatus) (result : Vector Word 16) : (s.completeAs code tag status result).clock = s.clock := by dsimp only [State.completeAs]
@[simp] theorem completeAs_roster (code tag : Word) (status : CompletionStatus) (result : Vector Word 16) : (s.completeAs code tag status result).roster = s.roster := by dsimp only [State.completeAs]
@[simp] theorem completeAs_outbound (code tag : Word) (status : CompletionStatus) (result : Vector Word 16) : (s.completeAs code tag status result).outbound = s.outbound := by dsimp only [State.completeAs]
@[simp] theorem completeAs_control (code tag : Word) (status : CompletionStatus) (result : Vector Word 16) : (s.completeAs code tag status result).control = s.control := by dsimp only [State.completeAs]
@[simp] theorem completeAs_filler (code tag : Word) (status : CompletionStatus) (result : Vector Word 16) : (s.completeAs code tag status result).filler = s.filler := by dsimp only [State.completeAs]
@[simp] theorem completeAs_lastOpened (code tag : Word) (status : CompletionStatus) (result : Vector Word 16) : (s.completeAs code tag status result).lastOpened = s.lastOpened := by dsimp only [State.completeAs]
@[simp] theorem completeAs_account (code tag : Word) (status : CompletionStatus) (result : Vector Word 16) : (s.completeAs code tag status result).account = s.account := by dsimp only [State.completeAs]
@[simp] theorem completeAs_resync (code tag : Word) (status : CompletionStatus) (result : Vector Word 16) : (s.completeAs code tag status result).resync = s.resync := by dsimp only [State.completeAs]
@[simp] theorem completeAs_catchUp (code tag : Word) (status : CompletionStatus) (result : Vector Word 16) : (s.completeAs code tag status result).catchUp = s.catchUp := by dsimp only [State.completeAs]
@[simp] theorem completeAs_serving (code tag : Word) (status : CompletionStatus) (result : Vector Word 16) : (s.completeAs code tag status result).serving = s.serving := by dsimp only [State.completeAs]
@[simp] theorem completeAs_turn (code tag : Word) (status : CompletionStatus) (result : Vector Word 16) : (s.completeAs code tag status result).turn = s.turn := by dsimp only [State.completeAs]
@[simp] theorem completeAs_notices (code tag : Word) (status : CompletionStatus) (result : Vector Word 16) : (s.completeAs code tag status result).notices = s.notices := by dsimp only [State.completeAs]
@[simp] theorem completeAs_events (code tag : Word) (status : CompletionStatus) (result : Vector Word 16) : (s.completeAs code tag status result).events = s.events := by dsimp only [State.completeAs]
@[simp] theorem completeAs_eventOverflow (code tag : Word) (status : CompletionStatus) (result : Vector Word 16) : (s.completeAs code tag status result).eventOverflow = s.eventOverflow := by dsimp only [State.completeAs]
@[simp] theorem completeAs_pending (code tag : Word) (status : CompletionStatus) (result : Vector Word 16) : (s.completeAs code tag status result).pending = s.pending := by dsimp only [State.completeAs]

/-! ### complete -/

@[simp] theorem complete_station (status : CompletionStatus) : (s.complete status).station = s.station := by dsimp only [State.complete, State.completeAs]
@[simp] theorem complete_leavePending (status : CompletionStatus) : (s.complete status).leavePending = s.leavePending := by dsimp only [State.complete, State.completeAs]
@[simp] theorem complete_openFailures (status : CompletionStatus) : (s.complete status).openFailures = s.openFailures := by dsimp only [State.complete, State.completeAs]
@[simp] theorem complete_profile (status : CompletionStatus) : (s.complete status).profile = s.profile := by dsimp only [State.complete, State.completeAs]
@[simp] theorem complete_windows (status : CompletionStatus) : (s.complete status).windows = s.windows := by dsimp only [State.complete, State.completeAs]
@[simp] theorem complete_store (status : CompletionStatus) : (s.complete status).store = s.store := by dsimp only [State.complete, State.completeAs]
@[simp] theorem complete_initPass (status : CompletionStatus) : (s.complete status).initPass = s.initPass := by dsimp only [State.complete, State.completeAs]
@[simp] theorem complete_frameClaims (status : CompletionStatus) : (s.complete status).frameClaims = s.frameClaims := by dsimp only [State.complete, State.completeAs]
@[simp] theorem complete_copyRead (status : CompletionStatus) : (s.complete status).copyRead = s.copyRead := by dsimp only [State.complete, State.completeAs]
@[simp] theorem complete_hostClaim (status : CompletionStatus) : (s.complete status).hostClaim = s.hostClaim := by dsimp only [State.complete, State.completeAs]
@[simp] theorem complete_busResponse (status : CompletionStatus) : (s.complete status).busResponse = s.busResponse := by dsimp only [State.complete, State.completeAs]
@[simp] theorem complete_region (status : CompletionStatus) : (s.complete status).region = s.region := by dsimp only [State.complete, State.completeAs]
@[simp] theorem complete_inFlight (status : CompletionStatus) : (s.complete status).inFlight = s.inFlight := by dsimp only [State.complete, State.completeAs]
@[simp] theorem complete_transmitter (status : CompletionStatus) : (s.complete status).transmitter = s.transmitter := by dsimp only [State.complete, State.completeAs]
@[simp] theorem complete_receiver (status : CompletionStatus) : (s.complete status).receiver = s.receiver := by dsimp only [State.complete, State.completeAs]
@[simp] theorem complete_clock (status : CompletionStatus) : (s.complete status).clock = s.clock := by dsimp only [State.complete, State.completeAs]
@[simp] theorem complete_roster (status : CompletionStatus) : (s.complete status).roster = s.roster := by dsimp only [State.complete, State.completeAs]
@[simp] theorem complete_outbound (status : CompletionStatus) : (s.complete status).outbound = s.outbound := by dsimp only [State.complete, State.completeAs]
@[simp] theorem complete_control (status : CompletionStatus) : (s.complete status).control = s.control := by dsimp only [State.complete, State.completeAs]
@[simp] theorem complete_filler (status : CompletionStatus) : (s.complete status).filler = s.filler := by dsimp only [State.complete, State.completeAs]
@[simp] theorem complete_lastOpened (status : CompletionStatus) : (s.complete status).lastOpened = s.lastOpened := by dsimp only [State.complete, State.completeAs]
@[simp] theorem complete_account (status : CompletionStatus) : (s.complete status).account = s.account := by dsimp only [State.complete, State.completeAs]
@[simp] theorem complete_resync (status : CompletionStatus) : (s.complete status).resync = s.resync := by dsimp only [State.complete, State.completeAs]
@[simp] theorem complete_catchUp (status : CompletionStatus) : (s.complete status).catchUp = s.catchUp := by dsimp only [State.complete, State.completeAs]
@[simp] theorem complete_serving (status : CompletionStatus) : (s.complete status).serving = s.serving := by dsimp only [State.complete, State.completeAs]
@[simp] theorem complete_turn (status : CompletionStatus) : (s.complete status).turn = s.turn := by dsimp only [State.complete, State.completeAs]
@[simp] theorem complete_notices (status : CompletionStatus) : (s.complete status).notices = s.notices := by dsimp only [State.complete, State.completeAs]
@[simp] theorem complete_events (status : CompletionStatus) : (s.complete status).events = s.events := by dsimp only [State.complete, State.completeAs]
@[simp] theorem complete_eventOverflow (status : CompletionStatus) : (s.complete status).eventOverflow = s.eventOverflow := by dsimp only [State.complete, State.completeAs]
@[simp] theorem complete_pending (status : CompletionStatus) : (s.complete status).pending = s.pending := by dsimp only [State.complete, State.completeAs]

/-! ### completeBytes -/

@[simp] theorem completeBytes_station (status : CompletionStatus) (bytes : List Byte) : (s.completeBytes status bytes).station = s.station := by dsimp only [State.completeBytes, State.completeAs]
@[simp] theorem completeBytes_leavePending (status : CompletionStatus) (bytes : List Byte) : (s.completeBytes status bytes).leavePending = s.leavePending := by dsimp only [State.completeBytes, State.completeAs]
@[simp] theorem completeBytes_openFailures (status : CompletionStatus) (bytes : List Byte) : (s.completeBytes status bytes).openFailures = s.openFailures := by dsimp only [State.completeBytes, State.completeAs]
@[simp] theorem completeBytes_profile (status : CompletionStatus) (bytes : List Byte) : (s.completeBytes status bytes).profile = s.profile := by dsimp only [State.completeBytes, State.completeAs]
@[simp] theorem completeBytes_windows (status : CompletionStatus) (bytes : List Byte) : (s.completeBytes status bytes).windows = s.windows := by dsimp only [State.completeBytes, State.completeAs]
@[simp] theorem completeBytes_store (status : CompletionStatus) (bytes : List Byte) : (s.completeBytes status bytes).store = s.store := by dsimp only [State.completeBytes, State.completeAs]
@[simp] theorem completeBytes_initPass (status : CompletionStatus) (bytes : List Byte) : (s.completeBytes status bytes).initPass = s.initPass := by dsimp only [State.completeBytes, State.completeAs]
@[simp] theorem completeBytes_frameClaims (status : CompletionStatus) (bytes : List Byte) : (s.completeBytes status bytes).frameClaims = s.frameClaims := by dsimp only [State.completeBytes, State.completeAs]
@[simp] theorem completeBytes_copyRead (status : CompletionStatus) (bytes : List Byte) : (s.completeBytes status bytes).copyRead = s.copyRead := by dsimp only [State.completeBytes, State.completeAs]
@[simp] theorem completeBytes_hostClaim (status : CompletionStatus) (bytes : List Byte) : (s.completeBytes status bytes).hostClaim = s.hostClaim := by dsimp only [State.completeBytes, State.completeAs]
@[simp] theorem completeBytes_busResponse (status : CompletionStatus) (bytes : List Byte) : (s.completeBytes status bytes).busResponse = s.busResponse := by dsimp only [State.completeBytes, State.completeAs]
@[simp] theorem completeBytes_region (status : CompletionStatus) (bytes : List Byte) : (s.completeBytes status bytes).region = s.region := by dsimp only [State.completeBytes, State.completeAs]
@[simp] theorem completeBytes_inFlight (status : CompletionStatus) (bytes : List Byte) : (s.completeBytes status bytes).inFlight = s.inFlight := by dsimp only [State.completeBytes, State.completeAs]
@[simp] theorem completeBytes_transmitter (status : CompletionStatus) (bytes : List Byte) : (s.completeBytes status bytes).transmitter = s.transmitter := by dsimp only [State.completeBytes, State.completeAs]
@[simp] theorem completeBytes_receiver (status : CompletionStatus) (bytes : List Byte) : (s.completeBytes status bytes).receiver = s.receiver := by dsimp only [State.completeBytes, State.completeAs]
@[simp] theorem completeBytes_clock (status : CompletionStatus) (bytes : List Byte) : (s.completeBytes status bytes).clock = s.clock := by dsimp only [State.completeBytes, State.completeAs]
@[simp] theorem completeBytes_roster (status : CompletionStatus) (bytes : List Byte) : (s.completeBytes status bytes).roster = s.roster := by dsimp only [State.completeBytes, State.completeAs]
@[simp] theorem completeBytes_outbound (status : CompletionStatus) (bytes : List Byte) : (s.completeBytes status bytes).outbound = s.outbound := by dsimp only [State.completeBytes, State.completeAs]
@[simp] theorem completeBytes_control (status : CompletionStatus) (bytes : List Byte) : (s.completeBytes status bytes).control = s.control := by dsimp only [State.completeBytes, State.completeAs]
@[simp] theorem completeBytes_filler (status : CompletionStatus) (bytes : List Byte) : (s.completeBytes status bytes).filler = s.filler := by dsimp only [State.completeBytes, State.completeAs]
@[simp] theorem completeBytes_lastOpened (status : CompletionStatus) (bytes : List Byte) : (s.completeBytes status bytes).lastOpened = s.lastOpened := by dsimp only [State.completeBytes, State.completeAs]
@[simp] theorem completeBytes_account (status : CompletionStatus) (bytes : List Byte) : (s.completeBytes status bytes).account = s.account := by dsimp only [State.completeBytes, State.completeAs]
@[simp] theorem completeBytes_resync (status : CompletionStatus) (bytes : List Byte) : (s.completeBytes status bytes).resync = s.resync := by dsimp only [State.completeBytes, State.completeAs]
@[simp] theorem completeBytes_catchUp (status : CompletionStatus) (bytes : List Byte) : (s.completeBytes status bytes).catchUp = s.catchUp := by dsimp only [State.completeBytes, State.completeAs]
@[simp] theorem completeBytes_serving (status : CompletionStatus) (bytes : List Byte) : (s.completeBytes status bytes).serving = s.serving := by dsimp only [State.completeBytes, State.completeAs]
@[simp] theorem completeBytes_turn (status : CompletionStatus) (bytes : List Byte) : (s.completeBytes status bytes).turn = s.turn := by dsimp only [State.completeBytes, State.completeAs]
@[simp] theorem completeBytes_notices (status : CompletionStatus) (bytes : List Byte) : (s.completeBytes status bytes).notices = s.notices := by dsimp only [State.completeBytes, State.completeAs]
@[simp] theorem completeBytes_events (status : CompletionStatus) (bytes : List Byte) : (s.completeBytes status bytes).events = s.events := by dsimp only [State.completeBytes, State.completeAs]
@[simp] theorem completeBytes_eventOverflow (status : CompletionStatus) (bytes : List Byte) : (s.completeBytes status bytes).eventOverflow = s.eventOverflow := by dsimp only [State.completeBytes, State.completeAs]
@[simp] theorem completeBytes_pending (status : CompletionStatus) (bytes : List Byte) : (s.completeBytes status bytes).pending = s.pending := by dsimp only [State.completeBytes, State.completeAs]

/-! ### popOutbound -/

@[simp] theorem popOutbound_station : (s.popOutbound).station = s.station := by dsimp only [State.popOutbound]
@[simp] theorem popOutbound_leavePending : (s.popOutbound).leavePending = s.leavePending := by dsimp only [State.popOutbound]
@[simp] theorem popOutbound_openFailures : (s.popOutbound).openFailures = s.openFailures := by dsimp only [State.popOutbound]
@[simp] theorem popOutbound_profile : (s.popOutbound).profile = s.profile := by dsimp only [State.popOutbound]
@[simp] theorem popOutbound_windows : (s.popOutbound).windows = s.windows := by dsimp only [State.popOutbound]
@[simp] theorem popOutbound_store : (s.popOutbound).store = s.store := by dsimp only [State.popOutbound]
@[simp] theorem popOutbound_initPass : (s.popOutbound).initPass = s.initPass := by dsimp only [State.popOutbound]
@[simp] theorem popOutbound_frameClaims : (s.popOutbound).frameClaims = s.frameClaims := by dsimp only [State.popOutbound]
@[simp] theorem popOutbound_copyRead : (s.popOutbound).copyRead = s.copyRead := by dsimp only [State.popOutbound]
@[simp] theorem popOutbound_hostClaim : (s.popOutbound).hostClaim = s.hostClaim := by dsimp only [State.popOutbound]
@[simp] theorem popOutbound_busResponse : (s.popOutbound).busResponse = s.busResponse := by dsimp only [State.popOutbound]
@[simp] theorem popOutbound_region : (s.popOutbound).region = s.region := by dsimp only [State.popOutbound]
@[simp] theorem popOutbound_completion : (s.popOutbound).completion = s.completion := by dsimp only [State.popOutbound]
@[simp] theorem popOutbound_inFlight : (s.popOutbound).inFlight = s.inFlight := by dsimp only [State.popOutbound]
@[simp] theorem popOutbound_transmitter : (s.popOutbound).transmitter = s.transmitter := by dsimp only [State.popOutbound]
@[simp] theorem popOutbound_receiver : (s.popOutbound).receiver = s.receiver := by dsimp only [State.popOutbound]
@[simp] theorem popOutbound_clock : (s.popOutbound).clock = s.clock := by dsimp only [State.popOutbound]
@[simp] theorem popOutbound_roster : (s.popOutbound).roster = s.roster := by dsimp only [State.popOutbound]
@[simp] theorem popOutbound_control : (s.popOutbound).control = s.control := by dsimp only [State.popOutbound]
@[simp] theorem popOutbound_filler : (s.popOutbound).filler = s.filler := by dsimp only [State.popOutbound]
@[simp] theorem popOutbound_lastOpened : (s.popOutbound).lastOpened = s.lastOpened := by dsimp only [State.popOutbound]
@[simp] theorem popOutbound_account : (s.popOutbound).account = s.account := by dsimp only [State.popOutbound]
@[simp] theorem popOutbound_resync : (s.popOutbound).resync = s.resync := by dsimp only [State.popOutbound]
@[simp] theorem popOutbound_catchUp : (s.popOutbound).catchUp = s.catchUp := by dsimp only [State.popOutbound]
@[simp] theorem popOutbound_serving : (s.popOutbound).serving = s.serving := by dsimp only [State.popOutbound]
@[simp] theorem popOutbound_turn : (s.popOutbound).turn = s.turn := by dsimp only [State.popOutbound]
@[simp] theorem popOutbound_notices : (s.popOutbound).notices = s.notices := by dsimp only [State.popOutbound]
@[simp] theorem popOutbound_events : (s.popOutbound).events = s.events := by dsimp only [State.popOutbound]
@[simp] theorem popOutbound_eventOverflow : (s.popOutbound).eventOverflow = s.eventOverflow := by dsimp only [State.popOutbound]
@[simp] theorem popOutbound_pending : (s.popOutbound).pending = s.pending := by dsimp only [State.popOutbound]

/-! ### removeServing -/

@[simp] theorem removeServing_station (pair : StationNo × WindowNo) : (s.removeServing pair).station = s.station := by dsimp only [State.removeServing]
@[simp] theorem removeServing_leavePending (pair : StationNo × WindowNo) : (s.removeServing pair).leavePending = s.leavePending := by dsimp only [State.removeServing]
@[simp] theorem removeServing_openFailures (pair : StationNo × WindowNo) : (s.removeServing pair).openFailures = s.openFailures := by dsimp only [State.removeServing]
@[simp] theorem removeServing_profile (pair : StationNo × WindowNo) : (s.removeServing pair).profile = s.profile := by dsimp only [State.removeServing]
@[simp] theorem removeServing_windows (pair : StationNo × WindowNo) : (s.removeServing pair).windows = s.windows := by dsimp only [State.removeServing]
@[simp] theorem removeServing_store (pair : StationNo × WindowNo) : (s.removeServing pair).store = s.store := by dsimp only [State.removeServing]
@[simp] theorem removeServing_initPass (pair : StationNo × WindowNo) : (s.removeServing pair).initPass = s.initPass := by dsimp only [State.removeServing]
@[simp] theorem removeServing_frameClaims (pair : StationNo × WindowNo) : (s.removeServing pair).frameClaims = s.frameClaims := by dsimp only [State.removeServing]
@[simp] theorem removeServing_hostClaim (pair : StationNo × WindowNo) : (s.removeServing pair).hostClaim = s.hostClaim := by dsimp only [State.removeServing]
@[simp] theorem removeServing_busResponse (pair : StationNo × WindowNo) : (s.removeServing pair).busResponse = s.busResponse := by dsimp only [State.removeServing]
@[simp] theorem removeServing_region (pair : StationNo × WindowNo) : (s.removeServing pair).region = s.region := by dsimp only [State.removeServing]
@[simp] theorem removeServing_completion (pair : StationNo × WindowNo) : (s.removeServing pair).completion = s.completion := by dsimp only [State.removeServing]
@[simp] theorem removeServing_inFlight (pair : StationNo × WindowNo) : (s.removeServing pair).inFlight = s.inFlight := by dsimp only [State.removeServing]
@[simp] theorem removeServing_transmitter (pair : StationNo × WindowNo) : (s.removeServing pair).transmitter = s.transmitter := by dsimp only [State.removeServing]
@[simp] theorem removeServing_receiver (pair : StationNo × WindowNo) : (s.removeServing pair).receiver = s.receiver := by dsimp only [State.removeServing]
@[simp] theorem removeServing_clock (pair : StationNo × WindowNo) : (s.removeServing pair).clock = s.clock := by dsimp only [State.removeServing]
@[simp] theorem removeServing_roster (pair : StationNo × WindowNo) : (s.removeServing pair).roster = s.roster := by dsimp only [State.removeServing]
@[simp] theorem removeServing_outbound (pair : StationNo × WindowNo) : (s.removeServing pair).outbound = s.outbound := by dsimp only [State.removeServing]
@[simp] theorem removeServing_control (pair : StationNo × WindowNo) : (s.removeServing pair).control = s.control := by dsimp only [State.removeServing]
@[simp] theorem removeServing_lastOpened (pair : StationNo × WindowNo) : (s.removeServing pair).lastOpened = s.lastOpened := by dsimp only [State.removeServing]
@[simp] theorem removeServing_account (pair : StationNo × WindowNo) : (s.removeServing pair).account = s.account := by dsimp only [State.removeServing]
@[simp] theorem removeServing_resync (pair : StationNo × WindowNo) : (s.removeServing pair).resync = s.resync := by dsimp only [State.removeServing]
@[simp] theorem removeServing_catchUp (pair : StationNo × WindowNo) : (s.removeServing pair).catchUp = s.catchUp := by dsimp only [State.removeServing]
@[simp] theorem removeServing_notices (pair : StationNo × WindowNo) : (s.removeServing pair).notices = s.notices := by dsimp only [State.removeServing]
@[simp] theorem removeServing_events (pair : StationNo × WindowNo) : (s.removeServing pair).events = s.events := by dsimp only [State.removeServing]
@[simp] theorem removeServing_eventOverflow (pair : StationNo × WindowNo) : (s.removeServing pair).eventOverflow = s.eventOverflow := by dsimp only [State.removeServing]
@[simp] theorem removeServing_pending (pair : StationNo × WindowNo) : (s.removeServing pair).pending = s.pending := by dsimp only [State.removeServing]

/-! ### markOnTime -/

@[simp] theorem markOnTime_station : (s.markOnTime).station = s.station := by dsimp only [State.markOnTime]
@[simp] theorem markOnTime_leavePending : (s.markOnTime).leavePending = s.leavePending := by dsimp only [State.markOnTime]
@[simp] theorem markOnTime_openFailures : (s.markOnTime).openFailures = s.openFailures := by dsimp only [State.markOnTime]
@[simp] theorem markOnTime_profile : (s.markOnTime).profile = s.profile := by dsimp only [State.markOnTime]
@[simp] theorem markOnTime_windows : (s.markOnTime).windows = s.windows := by dsimp only [State.markOnTime]
@[simp] theorem markOnTime_store : (s.markOnTime).store = s.store := by dsimp only [State.markOnTime]
@[simp] theorem markOnTime_initPass : (s.markOnTime).initPass = s.initPass := by dsimp only [State.markOnTime]
@[simp] theorem markOnTime_frameClaims : (s.markOnTime).frameClaims = s.frameClaims := by dsimp only [State.markOnTime]
@[simp] theorem markOnTime_copyRead : (s.markOnTime).copyRead = s.copyRead := by dsimp only [State.markOnTime]
@[simp] theorem markOnTime_hostClaim : (s.markOnTime).hostClaim = s.hostClaim := by dsimp only [State.markOnTime]
@[simp] theorem markOnTime_busResponse : (s.markOnTime).busResponse = s.busResponse := by dsimp only [State.markOnTime]
@[simp] theorem markOnTime_region : (s.markOnTime).region = s.region := by dsimp only [State.markOnTime]
@[simp] theorem markOnTime_completion : (s.markOnTime).completion = s.completion := by dsimp only [State.markOnTime]
@[simp] theorem markOnTime_inFlight : (s.markOnTime).inFlight = s.inFlight := by dsimp only [State.markOnTime]
@[simp] theorem markOnTime_transmitter : (s.markOnTime).transmitter = s.transmitter := by dsimp only [State.markOnTime]
@[simp] theorem markOnTime_receiver : (s.markOnTime).receiver = s.receiver := by dsimp only [State.markOnTime]
@[simp] theorem markOnTime_roster : (s.markOnTime).roster = s.roster := by dsimp only [State.markOnTime]
@[simp] theorem markOnTime_outbound : (s.markOnTime).outbound = s.outbound := by dsimp only [State.markOnTime]
@[simp] theorem markOnTime_control : (s.markOnTime).control = s.control := by dsimp only [State.markOnTime]
@[simp] theorem markOnTime_filler : (s.markOnTime).filler = s.filler := by dsimp only [State.markOnTime]
@[simp] theorem markOnTime_lastOpened : (s.markOnTime).lastOpened = s.lastOpened := by dsimp only [State.markOnTime]
@[simp] theorem markOnTime_account : (s.markOnTime).account = s.account := by dsimp only [State.markOnTime]
@[simp] theorem markOnTime_resync : (s.markOnTime).resync = s.resync := by dsimp only [State.markOnTime]
@[simp] theorem markOnTime_catchUp : (s.markOnTime).catchUp = s.catchUp := by dsimp only [State.markOnTime]
@[simp] theorem markOnTime_serving : (s.markOnTime).serving = s.serving := by dsimp only [State.markOnTime]
@[simp] theorem markOnTime_turn : (s.markOnTime).turn = s.turn := by dsimp only [State.markOnTime]
@[simp] theorem markOnTime_notices : (s.markOnTime).notices = s.notices := by dsimp only [State.markOnTime]
@[simp] theorem markOnTime_events : (s.markOnTime).events = s.events := by dsimp only [State.markOnTime]
@[simp] theorem markOnTime_eventOverflow : (s.markOnTime).eventOverflow = s.eventOverflow := by dsimp only [State.markOnTime]
@[simp] theorem markOnTime_pending : (s.markOnTime).pending = s.pending := by dsimp only [State.markOnTime]

/-! ### markMisaligned -/

@[simp] theorem markMisaligned_station : (s.markMisaligned).station = s.station := by dsimp only [State.markMisaligned]
@[simp] theorem markMisaligned_leavePending : (s.markMisaligned).leavePending = s.leavePending := by dsimp only [State.markMisaligned]
@[simp] theorem markMisaligned_openFailures : (s.markMisaligned).openFailures = s.openFailures := by dsimp only [State.markMisaligned]
@[simp] theorem markMisaligned_profile : (s.markMisaligned).profile = s.profile := by dsimp only [State.markMisaligned]
@[simp] theorem markMisaligned_windows : (s.markMisaligned).windows = s.windows := by dsimp only [State.markMisaligned]
@[simp] theorem markMisaligned_store : (s.markMisaligned).store = s.store := by dsimp only [State.markMisaligned]
@[simp] theorem markMisaligned_initPass : (s.markMisaligned).initPass = s.initPass := by dsimp only [State.markMisaligned]
@[simp] theorem markMisaligned_frameClaims : (s.markMisaligned).frameClaims = s.frameClaims := by dsimp only [State.markMisaligned]
@[simp] theorem markMisaligned_copyRead : (s.markMisaligned).copyRead = s.copyRead := by dsimp only [State.markMisaligned]
@[simp] theorem markMisaligned_hostClaim : (s.markMisaligned).hostClaim = s.hostClaim := by dsimp only [State.markMisaligned]
@[simp] theorem markMisaligned_busResponse : (s.markMisaligned).busResponse = s.busResponse := by dsimp only [State.markMisaligned]
@[simp] theorem markMisaligned_region : (s.markMisaligned).region = s.region := by dsimp only [State.markMisaligned]
@[simp] theorem markMisaligned_completion : (s.markMisaligned).completion = s.completion := by dsimp only [State.markMisaligned]
@[simp] theorem markMisaligned_inFlight : (s.markMisaligned).inFlight = s.inFlight := by dsimp only [State.markMisaligned]
@[simp] theorem markMisaligned_transmitter : (s.markMisaligned).transmitter = s.transmitter := by dsimp only [State.markMisaligned]
@[simp] theorem markMisaligned_receiver : (s.markMisaligned).receiver = s.receiver := by dsimp only [State.markMisaligned]
@[simp] theorem markMisaligned_roster : (s.markMisaligned).roster = s.roster := by dsimp only [State.markMisaligned]
@[simp] theorem markMisaligned_outbound : (s.markMisaligned).outbound = s.outbound := by dsimp only [State.markMisaligned]
@[simp] theorem markMisaligned_control : (s.markMisaligned).control = s.control := by dsimp only [State.markMisaligned]
@[simp] theorem markMisaligned_filler : (s.markMisaligned).filler = s.filler := by dsimp only [State.markMisaligned]
@[simp] theorem markMisaligned_lastOpened : (s.markMisaligned).lastOpened = s.lastOpened := by dsimp only [State.markMisaligned]
@[simp] theorem markMisaligned_account : (s.markMisaligned).account = s.account := by dsimp only [State.markMisaligned]
@[simp] theorem markMisaligned_resync : (s.markMisaligned).resync = s.resync := by dsimp only [State.markMisaligned]
@[simp] theorem markMisaligned_catchUp : (s.markMisaligned).catchUp = s.catchUp := by dsimp only [State.markMisaligned]
@[simp] theorem markMisaligned_serving : (s.markMisaligned).serving = s.serving := by dsimp only [State.markMisaligned]
@[simp] theorem markMisaligned_turn : (s.markMisaligned).turn = s.turn := by dsimp only [State.markMisaligned]
@[simp] theorem markMisaligned_notices : (s.markMisaligned).notices = s.notices := by dsimp only [State.markMisaligned]
@[simp] theorem markMisaligned_events : (s.markMisaligned).events = s.events := by dsimp only [State.markMisaligned]
@[simp] theorem markMisaligned_eventOverflow : (s.markMisaligned).eventOverflow = s.eventOverflow := by dsimp only [State.markMisaligned]
@[simp] theorem markMisaligned_pending : (s.markMisaligned).pending = s.pending := by dsimp only [State.markMisaligned]

/-! ### endRound -/

@[simp] theorem endRound_station : (s.endRound).station = s.station := by dsimp only [State.endRound]
@[simp] theorem endRound_leavePending : (s.endRound).leavePending = s.leavePending := by dsimp only [State.endRound]
@[simp] theorem endRound_openFailures : (s.endRound).openFailures = s.openFailures := by dsimp only [State.endRound]
@[simp] theorem endRound_profile : (s.endRound).profile = s.profile := by dsimp only [State.endRound]
@[simp] theorem endRound_windows : (s.endRound).windows = s.windows := by dsimp only [State.endRound]
@[simp] theorem endRound_store : (s.endRound).store = s.store := by dsimp only [State.endRound]
@[simp] theorem endRound_initPass : (s.endRound).initPass = s.initPass := by dsimp only [State.endRound]
@[simp] theorem endRound_frameClaims : (s.endRound).frameClaims = s.frameClaims := by dsimp only [State.endRound]
@[simp] theorem endRound_copyRead : (s.endRound).copyRead = s.copyRead := by dsimp only [State.endRound]
@[simp] theorem endRound_hostClaim : (s.endRound).hostClaim = s.hostClaim := by dsimp only [State.endRound]
@[simp] theorem endRound_busResponse : (s.endRound).busResponse = s.busResponse := by dsimp only [State.endRound]
@[simp] theorem endRound_region : (s.endRound).region = s.region := by dsimp only [State.endRound]
@[simp] theorem endRound_completion : (s.endRound).completion = s.completion := by dsimp only [State.endRound]
@[simp] theorem endRound_inFlight : (s.endRound).inFlight = s.inFlight := by dsimp only [State.endRound]
@[simp] theorem endRound_transmitter : (s.endRound).transmitter = s.transmitter := by dsimp only [State.endRound]
@[simp] theorem endRound_receiver : (s.endRound).receiver = s.receiver := by dsimp only [State.endRound]
@[simp] theorem endRound_roster : (s.endRound).roster = s.roster := by dsimp only [State.endRound]
@[simp] theorem endRound_outbound : (s.endRound).outbound = s.outbound := by dsimp only [State.endRound]
@[simp] theorem endRound_control : (s.endRound).control = s.control := by dsimp only [State.endRound]
@[simp] theorem endRound_filler : (s.endRound).filler = s.filler := by dsimp only [State.endRound]
@[simp] theorem endRound_lastOpened : (s.endRound).lastOpened = s.lastOpened := by dsimp only [State.endRound]
@[simp] theorem endRound_account : (s.endRound).account = s.account := by dsimp only [State.endRound]
@[simp] theorem endRound_resync : (s.endRound).resync = s.resync := by dsimp only [State.endRound]
@[simp] theorem endRound_catchUp : (s.endRound).catchUp = s.catchUp := by dsimp only [State.endRound]
@[simp] theorem endRound_serving : (s.endRound).serving = s.serving := by dsimp only [State.endRound]
@[simp] theorem endRound_turn : (s.endRound).turn = s.turn := by dsimp only [State.endRound]
@[simp] theorem endRound_notices : (s.endRound).notices = s.notices := by dsimp only [State.endRound]
@[simp] theorem endRound_events : (s.endRound).events = s.events := by dsimp only [State.endRound]
@[simp] theorem endRound_eventOverflow : (s.endRound).eventOverflow = s.eventOverflow := by dsimp only [State.endRound]
@[simp] theorem endRound_pending : (s.endRound).pending = s.pending := by dsimp only [State.endRound]

/-! ### countFrame -/

@[simp] theorem countFrame_station : (s.countFrame).station = s.station := by dsimp only [State.countFrame]
@[simp] theorem countFrame_leavePending : (s.countFrame).leavePending = s.leavePending := by dsimp only [State.countFrame]
@[simp] theorem countFrame_openFailures : (s.countFrame).openFailures = s.openFailures := by dsimp only [State.countFrame]
@[simp] theorem countFrame_profile : (s.countFrame).profile = s.profile := by dsimp only [State.countFrame]
@[simp] theorem countFrame_windows : (s.countFrame).windows = s.windows := by dsimp only [State.countFrame]
@[simp] theorem countFrame_store : (s.countFrame).store = s.store := by dsimp only [State.countFrame]
@[simp] theorem countFrame_initPass : (s.countFrame).initPass = s.initPass := by dsimp only [State.countFrame]
@[simp] theorem countFrame_frameClaims : (s.countFrame).frameClaims = s.frameClaims := by dsimp only [State.countFrame]
@[simp] theorem countFrame_copyRead : (s.countFrame).copyRead = s.copyRead := by dsimp only [State.countFrame]
@[simp] theorem countFrame_hostClaim : (s.countFrame).hostClaim = s.hostClaim := by dsimp only [State.countFrame]
@[simp] theorem countFrame_busResponse : (s.countFrame).busResponse = s.busResponse := by dsimp only [State.countFrame]
@[simp] theorem countFrame_region : (s.countFrame).region = s.region := by dsimp only [State.countFrame]
@[simp] theorem countFrame_completion : (s.countFrame).completion = s.completion := by dsimp only [State.countFrame]
@[simp] theorem countFrame_inFlight : (s.countFrame).inFlight = s.inFlight := by dsimp only [State.countFrame]
@[simp] theorem countFrame_transmitter : (s.countFrame).transmitter = s.transmitter := by dsimp only [State.countFrame]
@[simp] theorem countFrame_receiver : (s.countFrame).receiver = s.receiver := by dsimp only [State.countFrame]
@[simp] theorem countFrame_clock : (s.countFrame).clock = s.clock := by dsimp only [State.countFrame]
@[simp] theorem countFrame_roster : (s.countFrame).roster = s.roster := by dsimp only [State.countFrame]
@[simp] theorem countFrame_outbound : (s.countFrame).outbound = s.outbound := by dsimp only [State.countFrame]
@[simp] theorem countFrame_control : (s.countFrame).control = s.control := by dsimp only [State.countFrame]
@[simp] theorem countFrame_filler : (s.countFrame).filler = s.filler := by dsimp only [State.countFrame]
@[simp] theorem countFrame_lastOpened : (s.countFrame).lastOpened = s.lastOpened := by dsimp only [State.countFrame]
@[simp] theorem countFrame_resync : (s.countFrame).resync = s.resync := by dsimp only [State.countFrame]
@[simp] theorem countFrame_catchUp : (s.countFrame).catchUp = s.catchUp := by dsimp only [State.countFrame]
@[simp] theorem countFrame_serving : (s.countFrame).serving = s.serving := by dsimp only [State.countFrame]
@[simp] theorem countFrame_turn : (s.countFrame).turn = s.turn := by dsimp only [State.countFrame]
@[simp] theorem countFrame_notices : (s.countFrame).notices = s.notices := by dsimp only [State.countFrame]
@[simp] theorem countFrame_events : (s.countFrame).events = s.events := by dsimp only [State.countFrame]
@[simp] theorem countFrame_eventOverflow : (s.countFrame).eventOverflow = s.eventOverflow := by dsimp only [State.countFrame]
@[simp] theorem countFrame_pending : (s.countFrame).pending = s.pending := by dsimp only [State.countFrame]

/-! ### countUpdate -/

@[simp] theorem countUpdate_station (w : WindowNo) : (s.countUpdate w).station = s.station := by dsimp only [State.countUpdate]
@[simp] theorem countUpdate_leavePending (w : WindowNo) : (s.countUpdate w).leavePending = s.leavePending := by dsimp only [State.countUpdate]
@[simp] theorem countUpdate_openFailures (w : WindowNo) : (s.countUpdate w).openFailures = s.openFailures := by dsimp only [State.countUpdate]
@[simp] theorem countUpdate_profile (w : WindowNo) : (s.countUpdate w).profile = s.profile := by dsimp only [State.countUpdate]
@[simp] theorem countUpdate_windows (w : WindowNo) : (s.countUpdate w).windows = s.windows := by dsimp only [State.countUpdate]
@[simp] theorem countUpdate_store (w : WindowNo) : (s.countUpdate w).store = s.store := by dsimp only [State.countUpdate]
@[simp] theorem countUpdate_initPass (w : WindowNo) : (s.countUpdate w).initPass = s.initPass := by dsimp only [State.countUpdate]
@[simp] theorem countUpdate_frameClaims (w : WindowNo) : (s.countUpdate w).frameClaims = s.frameClaims := by dsimp only [State.countUpdate]
@[simp] theorem countUpdate_copyRead (w : WindowNo) : (s.countUpdate w).copyRead = s.copyRead := by dsimp only [State.countUpdate]
@[simp] theorem countUpdate_hostClaim (w : WindowNo) : (s.countUpdate w).hostClaim = s.hostClaim := by dsimp only [State.countUpdate]
@[simp] theorem countUpdate_busResponse (w : WindowNo) : (s.countUpdate w).busResponse = s.busResponse := by dsimp only [State.countUpdate]
@[simp] theorem countUpdate_region (w : WindowNo) : (s.countUpdate w).region = s.region := by dsimp only [State.countUpdate]
@[simp] theorem countUpdate_completion (w : WindowNo) : (s.countUpdate w).completion = s.completion := by dsimp only [State.countUpdate]
@[simp] theorem countUpdate_inFlight (w : WindowNo) : (s.countUpdate w).inFlight = s.inFlight := by dsimp only [State.countUpdate]
@[simp] theorem countUpdate_transmitter (w : WindowNo) : (s.countUpdate w).transmitter = s.transmitter := by dsimp only [State.countUpdate]
@[simp] theorem countUpdate_receiver (w : WindowNo) : (s.countUpdate w).receiver = s.receiver := by dsimp only [State.countUpdate]
@[simp] theorem countUpdate_clock (w : WindowNo) : (s.countUpdate w).clock = s.clock := by dsimp only [State.countUpdate]
@[simp] theorem countUpdate_roster (w : WindowNo) : (s.countUpdate w).roster = s.roster := by dsimp only [State.countUpdate]
@[simp] theorem countUpdate_outbound (w : WindowNo) : (s.countUpdate w).outbound = s.outbound := by dsimp only [State.countUpdate]
@[simp] theorem countUpdate_control (w : WindowNo) : (s.countUpdate w).control = s.control := by dsimp only [State.countUpdate]
@[simp] theorem countUpdate_filler (w : WindowNo) : (s.countUpdate w).filler = s.filler := by dsimp only [State.countUpdate]
@[simp] theorem countUpdate_lastOpened (w : WindowNo) : (s.countUpdate w).lastOpened = s.lastOpened := by dsimp only [State.countUpdate]
@[simp] theorem countUpdate_resync (w : WindowNo) : (s.countUpdate w).resync = s.resync := by dsimp only [State.countUpdate]
@[simp] theorem countUpdate_catchUp (w : WindowNo) : (s.countUpdate w).catchUp = s.catchUp := by dsimp only [State.countUpdate]
@[simp] theorem countUpdate_serving (w : WindowNo) : (s.countUpdate w).serving = s.serving := by dsimp only [State.countUpdate]
@[simp] theorem countUpdate_turn (w : WindowNo) : (s.countUpdate w).turn = s.turn := by dsimp only [State.countUpdate]
@[simp] theorem countUpdate_notices (w : WindowNo) : (s.countUpdate w).notices = s.notices := by dsimp only [State.countUpdate]
@[simp] theorem countUpdate_events (w : WindowNo) : (s.countUpdate w).events = s.events := by dsimp only [State.countUpdate]
@[simp] theorem countUpdate_eventOverflow (w : WindowNo) : (s.countUpdate w).eventOverflow = s.eventOverflow := by dsimp only [State.countUpdate]
@[simp] theorem countUpdate_pending (w : WindowNo) : (s.countUpdate w).pending = s.pending := by dsimp only [State.countUpdate]

/-! ### countCorrupt -/

@[simp] theorem countCorrupt_station : (s.countCorrupt).station = s.station := by dsimp only [State.countCorrupt]
@[simp] theorem countCorrupt_leavePending : (s.countCorrupt).leavePending = s.leavePending := by dsimp only [State.countCorrupt]
@[simp] theorem countCorrupt_openFailures : (s.countCorrupt).openFailures = s.openFailures := by dsimp only [State.countCorrupt]
@[simp] theorem countCorrupt_profile : (s.countCorrupt).profile = s.profile := by dsimp only [State.countCorrupt]
@[simp] theorem countCorrupt_windows : (s.countCorrupt).windows = s.windows := by dsimp only [State.countCorrupt]
@[simp] theorem countCorrupt_store : (s.countCorrupt).store = s.store := by dsimp only [State.countCorrupt]
@[simp] theorem countCorrupt_initPass : (s.countCorrupt).initPass = s.initPass := by dsimp only [State.countCorrupt]
@[simp] theorem countCorrupt_frameClaims : (s.countCorrupt).frameClaims = s.frameClaims := by dsimp only [State.countCorrupt]
@[simp] theorem countCorrupt_copyRead : (s.countCorrupt).copyRead = s.copyRead := by dsimp only [State.countCorrupt]
@[simp] theorem countCorrupt_hostClaim : (s.countCorrupt).hostClaim = s.hostClaim := by dsimp only [State.countCorrupt]
@[simp] theorem countCorrupt_busResponse : (s.countCorrupt).busResponse = s.busResponse := by dsimp only [State.countCorrupt]
@[simp] theorem countCorrupt_region : (s.countCorrupt).region = s.region := by dsimp only [State.countCorrupt]
@[simp] theorem countCorrupt_completion : (s.countCorrupt).completion = s.completion := by dsimp only [State.countCorrupt]
@[simp] theorem countCorrupt_inFlight : (s.countCorrupt).inFlight = s.inFlight := by dsimp only [State.countCorrupt]
@[simp] theorem countCorrupt_transmitter : (s.countCorrupt).transmitter = s.transmitter := by dsimp only [State.countCorrupt]
@[simp] theorem countCorrupt_receiver : (s.countCorrupt).receiver = s.receiver := by dsimp only [State.countCorrupt]
@[simp] theorem countCorrupt_clock : (s.countCorrupt).clock = s.clock := by dsimp only [State.countCorrupt]
@[simp] theorem countCorrupt_roster : (s.countCorrupt).roster = s.roster := by dsimp only [State.countCorrupt]
@[simp] theorem countCorrupt_outbound : (s.countCorrupt).outbound = s.outbound := by dsimp only [State.countCorrupt]
@[simp] theorem countCorrupt_control : (s.countCorrupt).control = s.control := by dsimp only [State.countCorrupt]
@[simp] theorem countCorrupt_filler : (s.countCorrupt).filler = s.filler := by dsimp only [State.countCorrupt]
@[simp] theorem countCorrupt_lastOpened : (s.countCorrupt).lastOpened = s.lastOpened := by dsimp only [State.countCorrupt]
@[simp] theorem countCorrupt_resync : (s.countCorrupt).resync = s.resync := by dsimp only [State.countCorrupt]
@[simp] theorem countCorrupt_catchUp : (s.countCorrupt).catchUp = s.catchUp := by dsimp only [State.countCorrupt]
@[simp] theorem countCorrupt_serving : (s.countCorrupt).serving = s.serving := by dsimp only [State.countCorrupt]
@[simp] theorem countCorrupt_turn : (s.countCorrupt).turn = s.turn := by dsimp only [State.countCorrupt]
@[simp] theorem countCorrupt_notices : (s.countCorrupt).notices = s.notices := by dsimp only [State.countCorrupt]
@[simp] theorem countCorrupt_events : (s.countCorrupt).events = s.events := by dsimp only [State.countCorrupt]
@[simp] theorem countCorrupt_eventOverflow : (s.countCorrupt).eventOverflow = s.eventOverflow := by dsimp only [State.countCorrupt]
@[simp] theorem countCorrupt_pending : (s.countCorrupt).pending = s.pending := by dsimp only [State.countCorrupt]

/-! ### armAccount -/

@[simp] theorem armAccount_station (k : Nat) : (s.armAccount k).station = s.station := by dsimp only [State.armAccount]
@[simp] theorem armAccount_leavePending (k : Nat) : (s.armAccount k).leavePending = s.leavePending := by dsimp only [State.armAccount]
@[simp] theorem armAccount_openFailures (k : Nat) : (s.armAccount k).openFailures = s.openFailures := by dsimp only [State.armAccount]
@[simp] theorem armAccount_profile (k : Nat) : (s.armAccount k).profile = s.profile := by dsimp only [State.armAccount]
@[simp] theorem armAccount_windows (k : Nat) : (s.armAccount k).windows = s.windows := by dsimp only [State.armAccount]
@[simp] theorem armAccount_store (k : Nat) : (s.armAccount k).store = s.store := by dsimp only [State.armAccount]
@[simp] theorem armAccount_initPass (k : Nat) : (s.armAccount k).initPass = s.initPass := by dsimp only [State.armAccount]
@[simp] theorem armAccount_frameClaims (k : Nat) : (s.armAccount k).frameClaims = s.frameClaims := by dsimp only [State.armAccount]
@[simp] theorem armAccount_copyRead (k : Nat) : (s.armAccount k).copyRead = s.copyRead := by dsimp only [State.armAccount]
@[simp] theorem armAccount_hostClaim (k : Nat) : (s.armAccount k).hostClaim = s.hostClaim := by dsimp only [State.armAccount]
@[simp] theorem armAccount_busResponse (k : Nat) : (s.armAccount k).busResponse = s.busResponse := by dsimp only [State.armAccount]
@[simp] theorem armAccount_region (k : Nat) : (s.armAccount k).region = s.region := by dsimp only [State.armAccount]
@[simp] theorem armAccount_completion (k : Nat) : (s.armAccount k).completion = s.completion := by dsimp only [State.armAccount]
@[simp] theorem armAccount_inFlight (k : Nat) : (s.armAccount k).inFlight = s.inFlight := by dsimp only [State.armAccount]
@[simp] theorem armAccount_transmitter (k : Nat) : (s.armAccount k).transmitter = s.transmitter := by dsimp only [State.armAccount]
@[simp] theorem armAccount_receiver (k : Nat) : (s.armAccount k).receiver = s.receiver := by dsimp only [State.armAccount]
@[simp] theorem armAccount_clock (k : Nat) : (s.armAccount k).clock = s.clock := by dsimp only [State.armAccount]
@[simp] theorem armAccount_roster (k : Nat) : (s.armAccount k).roster = s.roster := by dsimp only [State.armAccount]
@[simp] theorem armAccount_outbound (k : Nat) : (s.armAccount k).outbound = s.outbound := by dsimp only [State.armAccount]
@[simp] theorem armAccount_control (k : Nat) : (s.armAccount k).control = s.control := by dsimp only [State.armAccount]
@[simp] theorem armAccount_filler (k : Nat) : (s.armAccount k).filler = s.filler := by dsimp only [State.armAccount]
@[simp] theorem armAccount_lastOpened (k : Nat) : (s.armAccount k).lastOpened = s.lastOpened := by dsimp only [State.armAccount]
@[simp] theorem armAccount_resync (k : Nat) : (s.armAccount k).resync = s.resync := by dsimp only [State.armAccount]
@[simp] theorem armAccount_catchUp (k : Nat) : (s.armAccount k).catchUp = s.catchUp := by dsimp only [State.armAccount]
@[simp] theorem armAccount_serving (k : Nat) : (s.armAccount k).serving = s.serving := by dsimp only [State.armAccount]
@[simp] theorem armAccount_turn (k : Nat) : (s.armAccount k).turn = s.turn := by dsimp only [State.armAccount]
@[simp] theorem armAccount_notices (k : Nat) : (s.armAccount k).notices = s.notices := by dsimp only [State.armAccount]
@[simp] theorem armAccount_events (k : Nat) : (s.armAccount k).events = s.events := by dsimp only [State.armAccount]
@[simp] theorem armAccount_eventOverflow (k : Nat) : (s.armAccount k).eventOverflow = s.eventOverflow := by dsimp only [State.armAccount]
@[simp] theorem armAccount_pending (k : Nat) : (s.armAccount k).pending = s.pending := by dsimp only [State.armAccount]

/-! ### updateRoster -/

@[simp] theorem updateRoster_station (station : StationNo) (f : RosterRecord → RosterRecord) : (s.updateRoster station f).station = s.station := by dsimp only [State.updateRoster]
@[simp] theorem updateRoster_leavePending (station : StationNo) (f : RosterRecord → RosterRecord) : (s.updateRoster station f).leavePending = s.leavePending := by dsimp only [State.updateRoster]
@[simp] theorem updateRoster_openFailures (station : StationNo) (f : RosterRecord → RosterRecord) : (s.updateRoster station f).openFailures = s.openFailures := by dsimp only [State.updateRoster]
@[simp] theorem updateRoster_profile (station : StationNo) (f : RosterRecord → RosterRecord) : (s.updateRoster station f).profile = s.profile := by dsimp only [State.updateRoster]
@[simp] theorem updateRoster_windows (station : StationNo) (f : RosterRecord → RosterRecord) : (s.updateRoster station f).windows = s.windows := by dsimp only [State.updateRoster]
@[simp] theorem updateRoster_store (station : StationNo) (f : RosterRecord → RosterRecord) : (s.updateRoster station f).store = s.store := by dsimp only [State.updateRoster]
@[simp] theorem updateRoster_initPass (station : StationNo) (f : RosterRecord → RosterRecord) : (s.updateRoster station f).initPass = s.initPass := by dsimp only [State.updateRoster]
@[simp] theorem updateRoster_frameClaims (station : StationNo) (f : RosterRecord → RosterRecord) : (s.updateRoster station f).frameClaims = s.frameClaims := by dsimp only [State.updateRoster]
@[simp] theorem updateRoster_copyRead (station : StationNo) (f : RosterRecord → RosterRecord) : (s.updateRoster station f).copyRead = s.copyRead := by dsimp only [State.updateRoster]
@[simp] theorem updateRoster_hostClaim (station : StationNo) (f : RosterRecord → RosterRecord) : (s.updateRoster station f).hostClaim = s.hostClaim := by dsimp only [State.updateRoster]
@[simp] theorem updateRoster_busResponse (station : StationNo) (f : RosterRecord → RosterRecord) : (s.updateRoster station f).busResponse = s.busResponse := by dsimp only [State.updateRoster]
@[simp] theorem updateRoster_region (station : StationNo) (f : RosterRecord → RosterRecord) : (s.updateRoster station f).region = s.region := by dsimp only [State.updateRoster]
@[simp] theorem updateRoster_completion (station : StationNo) (f : RosterRecord → RosterRecord) : (s.updateRoster station f).completion = s.completion := by dsimp only [State.updateRoster]
@[simp] theorem updateRoster_inFlight (station : StationNo) (f : RosterRecord → RosterRecord) : (s.updateRoster station f).inFlight = s.inFlight := by dsimp only [State.updateRoster]
@[simp] theorem updateRoster_transmitter (station : StationNo) (f : RosterRecord → RosterRecord) : (s.updateRoster station f).transmitter = s.transmitter := by dsimp only [State.updateRoster]
@[simp] theorem updateRoster_receiver (station : StationNo) (f : RosterRecord → RosterRecord) : (s.updateRoster station f).receiver = s.receiver := by dsimp only [State.updateRoster]
@[simp] theorem updateRoster_clock (station : StationNo) (f : RosterRecord → RosterRecord) : (s.updateRoster station f).clock = s.clock := by dsimp only [State.updateRoster]
@[simp] theorem updateRoster_outbound (station : StationNo) (f : RosterRecord → RosterRecord) : (s.updateRoster station f).outbound = s.outbound := by dsimp only [State.updateRoster]
@[simp] theorem updateRoster_control (station : StationNo) (f : RosterRecord → RosterRecord) : (s.updateRoster station f).control = s.control := by dsimp only [State.updateRoster]
@[simp] theorem updateRoster_filler (station : StationNo) (f : RosterRecord → RosterRecord) : (s.updateRoster station f).filler = s.filler := by dsimp only [State.updateRoster]
@[simp] theorem updateRoster_lastOpened (station : StationNo) (f : RosterRecord → RosterRecord) : (s.updateRoster station f).lastOpened = s.lastOpened := by dsimp only [State.updateRoster]
@[simp] theorem updateRoster_account (station : StationNo) (f : RosterRecord → RosterRecord) : (s.updateRoster station f).account = s.account := by dsimp only [State.updateRoster]
@[simp] theorem updateRoster_resync (station : StationNo) (f : RosterRecord → RosterRecord) : (s.updateRoster station f).resync = s.resync := by dsimp only [State.updateRoster]
@[simp] theorem updateRoster_catchUp (station : StationNo) (f : RosterRecord → RosterRecord) : (s.updateRoster station f).catchUp = s.catchUp := by dsimp only [State.updateRoster]
@[simp] theorem updateRoster_serving (station : StationNo) (f : RosterRecord → RosterRecord) : (s.updateRoster station f).serving = s.serving := by dsimp only [State.updateRoster]
@[simp] theorem updateRoster_turn (station : StationNo) (f : RosterRecord → RosterRecord) : (s.updateRoster station f).turn = s.turn := by dsimp only [State.updateRoster]
@[simp] theorem updateRoster_notices (station : StationNo) (f : RosterRecord → RosterRecord) : (s.updateRoster station f).notices = s.notices := by dsimp only [State.updateRoster]
@[simp] theorem updateRoster_events (station : StationNo) (f : RosterRecord → RosterRecord) : (s.updateRoster station f).events = s.events := by dsimp only [State.updateRoster]
@[simp] theorem updateRoster_eventOverflow (station : StationNo) (f : RosterRecord → RosterRecord) : (s.updateRoster station f).eventOverflow = s.eventOverflow := by dsimp only [State.updateRoster]
@[simp] theorem updateRoster_pending (station : StationNo) (f : RosterRecord → RosterRecord) : (s.updateRoster station f).pending = s.pending := by dsimp only [State.updateRoster]

/-! ### goOn -/

@[simp] theorem goOn_station : (s.goOn).station = s.station := by dsimp only [State.goOn]
@[simp] theorem goOn_leavePending : (s.goOn).leavePending = s.leavePending := by dsimp only [State.goOn]
@[simp] theorem goOn_openFailures : (s.goOn).openFailures = s.openFailures := by dsimp only [State.goOn]
@[simp] theorem goOn_profile : (s.goOn).profile = s.profile := by dsimp only [State.goOn]
@[simp] theorem goOn_windows : (s.goOn).windows = s.windows := by dsimp only [State.goOn]
@[simp] theorem goOn_store : (s.goOn).store = s.store := by dsimp only [State.goOn]
@[simp] theorem goOn_initPass : (s.goOn).initPass = s.initPass := by dsimp only [State.goOn]
@[simp] theorem goOn_frameClaims : (s.goOn).frameClaims = s.frameClaims := by dsimp only [State.goOn]
@[simp] theorem goOn_copyRead : (s.goOn).copyRead = s.copyRead := by dsimp only [State.goOn]
@[simp] theorem goOn_hostClaim : (s.goOn).hostClaim = s.hostClaim := by dsimp only [State.goOn]
@[simp] theorem goOn_busResponse : (s.goOn).busResponse = s.busResponse := by dsimp only [State.goOn]
@[simp] theorem goOn_region : (s.goOn).region = s.region := by dsimp only [State.goOn]
@[simp] theorem goOn_completion : (s.goOn).completion = s.completion := by dsimp only [State.goOn]
@[simp] theorem goOn_inFlight : (s.goOn).inFlight = s.inFlight := by dsimp only [State.goOn]
@[simp] theorem goOn_transmitter : (s.goOn).transmitter = s.transmitter := by dsimp only [State.goOn]
@[simp] theorem goOn_receiver : (s.goOn).receiver = s.receiver := by dsimp only [State.goOn]
@[simp] theorem goOn_clock : (s.goOn).clock = s.clock := by dsimp only [State.goOn]
@[simp] theorem goOn_roster : (s.goOn).roster = s.roster := by dsimp only [State.goOn]
@[simp] theorem goOn_outbound : (s.goOn).outbound = s.outbound := by dsimp only [State.goOn]
@[simp] theorem goOn_control : (s.goOn).control = s.control := by dsimp only [State.goOn]
@[simp] theorem goOn_lastOpened : (s.goOn).lastOpened = s.lastOpened := by dsimp only [State.goOn]
@[simp] theorem goOn_account : (s.goOn).account = s.account := by dsimp only [State.goOn]
@[simp] theorem goOn_resync : (s.goOn).resync = s.resync := by dsimp only [State.goOn]
@[simp] theorem goOn_catchUp : (s.goOn).catchUp = s.catchUp := by dsimp only [State.goOn]
@[simp] theorem goOn_serving : (s.goOn).serving = s.serving := by dsimp only [State.goOn]
@[simp] theorem goOn_turn : (s.goOn).turn = s.turn := by dsimp only [State.goOn]
@[simp] theorem goOn_notices : (s.goOn).notices = s.notices := by dsimp only [State.goOn]
@[simp] theorem goOn_events : (s.goOn).events = s.events := by dsimp only [State.goOn]
@[simp] theorem goOn_eventOverflow : (s.goOn).eventOverflow = s.eventOverflow := by dsimp only [State.goOn]
@[simp] theorem goOn_pending : (s.goOn).pending = s.pending := by dsimp only [State.goOn]

/-! ### abandonSlot -/

@[simp] theorem abandonSlot_station : (s.abandonSlot).station = s.station := by dsimp only [State.abandonSlot]
@[simp] theorem abandonSlot_leavePending : (s.abandonSlot).leavePending = s.leavePending := by dsimp only [State.abandonSlot]
@[simp] theorem abandonSlot_openFailures : (s.abandonSlot).openFailures = s.openFailures := by dsimp only [State.abandonSlot]
@[simp] theorem abandonSlot_profile : (s.abandonSlot).profile = s.profile := by dsimp only [State.abandonSlot]
@[simp] theorem abandonSlot_windows : (s.abandonSlot).windows = s.windows := by dsimp only [State.abandonSlot]
@[simp] theorem abandonSlot_store : (s.abandonSlot).store = s.store := by dsimp only [State.abandonSlot]
@[simp] theorem abandonSlot_initPass : (s.abandonSlot).initPass = s.initPass := by dsimp only [State.abandonSlot]
@[simp] theorem abandonSlot_frameClaims : (s.abandonSlot).frameClaims = s.frameClaims := by dsimp only [State.abandonSlot]
@[simp] theorem abandonSlot_copyRead : (s.abandonSlot).copyRead = s.copyRead := by dsimp only [State.abandonSlot]
@[simp] theorem abandonSlot_hostClaim : (s.abandonSlot).hostClaim = s.hostClaim := by dsimp only [State.abandonSlot]
@[simp] theorem abandonSlot_busResponse : (s.abandonSlot).busResponse = s.busResponse := by dsimp only [State.abandonSlot]
@[simp] theorem abandonSlot_region : (s.abandonSlot).region = s.region := by dsimp only [State.abandonSlot]
@[simp] theorem abandonSlot_completion : (s.abandonSlot).completion = s.completion := by dsimp only [State.abandonSlot]
@[simp] theorem abandonSlot_inFlight : (s.abandonSlot).inFlight = s.inFlight := by dsimp only [State.abandonSlot]
@[simp] theorem abandonSlot_transmitter : (s.abandonSlot).transmitter = s.transmitter := by dsimp only [State.abandonSlot]
@[simp] theorem abandonSlot_receiver : (s.abandonSlot).receiver = s.receiver := by dsimp only [State.abandonSlot]
@[simp] theorem abandonSlot_clock : (s.abandonSlot).clock = s.clock := by dsimp only [State.abandonSlot]
@[simp] theorem abandonSlot_roster : (s.abandonSlot).roster = s.roster := by dsimp only [State.abandonSlot]
@[simp] theorem abandonSlot_outbound : (s.abandonSlot).outbound = s.outbound := by dsimp only [State.abandonSlot]
@[simp] theorem abandonSlot_control : (s.abandonSlot).control = s.control := by dsimp only [State.abandonSlot]
@[simp] theorem abandonSlot_account : (s.abandonSlot).account = s.account := by dsimp only [State.abandonSlot]
@[simp] theorem abandonSlot_resync : (s.abandonSlot).resync = s.resync := by dsimp only [State.abandonSlot]
@[simp] theorem abandonSlot_catchUp : (s.abandonSlot).catchUp = s.catchUp := by dsimp only [State.abandonSlot]
@[simp] theorem abandonSlot_serving : (s.abandonSlot).serving = s.serving := by dsimp only [State.abandonSlot]
@[simp] theorem abandonSlot_turn : (s.abandonSlot).turn = s.turn := by dsimp only [State.abandonSlot]
@[simp] theorem abandonSlot_notices : (s.abandonSlot).notices = s.notices := by dsimp only [State.abandonSlot]
@[simp] theorem abandonSlot_events : (s.abandonSlot).events = s.events := by dsimp only [State.abandonSlot]
@[simp] theorem abandonSlot_eventOverflow : (s.abandonSlot).eventOverflow = s.eventOverflow := by dsimp only [State.abandonSlot]
@[simp] theorem abandonSlot_pending : (s.abandonSlot).pending = s.pending := by dsimp only [State.abandonSlot]

/-! ### releaseCopyRead -/

@[simp] theorem releaseCopyRead_station : (s.releaseCopyRead).station = s.station := by dsimp only [State.releaseCopyRead]
@[simp] theorem releaseCopyRead_leavePending : (s.releaseCopyRead).leavePending = s.leavePending := by dsimp only [State.releaseCopyRead]
@[simp] theorem releaseCopyRead_openFailures : (s.releaseCopyRead).openFailures = s.openFailures := by dsimp only [State.releaseCopyRead]
@[simp] theorem releaseCopyRead_profile : (s.releaseCopyRead).profile = s.profile := by dsimp only [State.releaseCopyRead]
@[simp] theorem releaseCopyRead_windows : (s.releaseCopyRead).windows = s.windows := by dsimp only [State.releaseCopyRead]
@[simp] theorem releaseCopyRead_store : (s.releaseCopyRead).store = s.store := by dsimp only [State.releaseCopyRead]
@[simp] theorem releaseCopyRead_initPass : (s.releaseCopyRead).initPass = s.initPass := by dsimp only [State.releaseCopyRead]
@[simp] theorem releaseCopyRead_frameClaims : (s.releaseCopyRead).frameClaims = s.frameClaims := by dsimp only [State.releaseCopyRead]
@[simp] theorem releaseCopyRead_hostClaim : (s.releaseCopyRead).hostClaim = s.hostClaim := by dsimp only [State.releaseCopyRead]
@[simp] theorem releaseCopyRead_busResponse : (s.releaseCopyRead).busResponse = s.busResponse := by dsimp only [State.releaseCopyRead]
@[simp] theorem releaseCopyRead_region : (s.releaseCopyRead).region = s.region := by dsimp only [State.releaseCopyRead]
@[simp] theorem releaseCopyRead_completion : (s.releaseCopyRead).completion = s.completion := by dsimp only [State.releaseCopyRead]
@[simp] theorem releaseCopyRead_inFlight : (s.releaseCopyRead).inFlight = s.inFlight := by dsimp only [State.releaseCopyRead]
@[simp] theorem releaseCopyRead_transmitter : (s.releaseCopyRead).transmitter = s.transmitter := by dsimp only [State.releaseCopyRead]
@[simp] theorem releaseCopyRead_receiver : (s.releaseCopyRead).receiver = s.receiver := by dsimp only [State.releaseCopyRead]
@[simp] theorem releaseCopyRead_clock : (s.releaseCopyRead).clock = s.clock := by dsimp only [State.releaseCopyRead]
@[simp] theorem releaseCopyRead_roster : (s.releaseCopyRead).roster = s.roster := by dsimp only [State.releaseCopyRead]
@[simp] theorem releaseCopyRead_outbound : (s.releaseCopyRead).outbound = s.outbound := by dsimp only [State.releaseCopyRead]
@[simp] theorem releaseCopyRead_control : (s.releaseCopyRead).control = s.control := by dsimp only [State.releaseCopyRead]
@[simp] theorem releaseCopyRead_lastOpened : (s.releaseCopyRead).lastOpened = s.lastOpened := by dsimp only [State.releaseCopyRead]
@[simp] theorem releaseCopyRead_account : (s.releaseCopyRead).account = s.account := by dsimp only [State.releaseCopyRead]
@[simp] theorem releaseCopyRead_resync : (s.releaseCopyRead).resync = s.resync := by dsimp only [State.releaseCopyRead]
@[simp] theorem releaseCopyRead_catchUp : (s.releaseCopyRead).catchUp = s.catchUp := by dsimp only [State.releaseCopyRead]
@[simp] theorem releaseCopyRead_serving : (s.releaseCopyRead).serving = s.serving := by dsimp only [State.releaseCopyRead]
@[simp] theorem releaseCopyRead_turn : (s.releaseCopyRead).turn = s.turn := by dsimp only [State.releaseCopyRead]
@[simp] theorem releaseCopyRead_notices : (s.releaseCopyRead).notices = s.notices := by dsimp only [State.releaseCopyRead]
@[simp] theorem releaseCopyRead_events : (s.releaseCopyRead).events = s.events := by dsimp only [State.releaseCopyRead]
@[simp] theorem releaseCopyRead_eventOverflow : (s.releaseCopyRead).eventOverflow = s.eventOverflow := by dsimp only [State.releaseCopyRead]
@[simp] theorem releaseCopyRead_pending : (s.releaseCopyRead).pending = s.pending := by dsimp only [State.releaseCopyRead]

/-! ### tellJoiner -/

@[simp] theorem tellJoiner_station (r : ServingRecord) : (s.tellJoiner r).station = s.station := by dsimp only [State.tellJoiner, State.queueControl]
@[simp] theorem tellJoiner_leavePending (r : ServingRecord) : (s.tellJoiner r).leavePending = s.leavePending := by dsimp only [State.tellJoiner, State.queueControl]
@[simp] theorem tellJoiner_openFailures (r : ServingRecord) : (s.tellJoiner r).openFailures = s.openFailures := by dsimp only [State.tellJoiner, State.queueControl]
@[simp] theorem tellJoiner_profile (r : ServingRecord) : (s.tellJoiner r).profile = s.profile := by dsimp only [State.tellJoiner, State.queueControl]
@[simp] theorem tellJoiner_windows (r : ServingRecord) : (s.tellJoiner r).windows = s.windows := by dsimp only [State.tellJoiner, State.queueControl]
@[simp] theorem tellJoiner_store (r : ServingRecord) : (s.tellJoiner r).store = s.store := by dsimp only [State.tellJoiner, State.queueControl]
@[simp] theorem tellJoiner_initPass (r : ServingRecord) : (s.tellJoiner r).initPass = s.initPass := by dsimp only [State.tellJoiner, State.queueControl]
@[simp] theorem tellJoiner_frameClaims (r : ServingRecord) : (s.tellJoiner r).frameClaims = s.frameClaims := by dsimp only [State.tellJoiner, State.queueControl]
@[simp] theorem tellJoiner_copyRead (r : ServingRecord) : (s.tellJoiner r).copyRead = s.copyRead := by dsimp only [State.tellJoiner, State.queueControl]
@[simp] theorem tellJoiner_hostClaim (r : ServingRecord) : (s.tellJoiner r).hostClaim = s.hostClaim := by dsimp only [State.tellJoiner, State.queueControl]
@[simp] theorem tellJoiner_busResponse (r : ServingRecord) : (s.tellJoiner r).busResponse = s.busResponse := by dsimp only [State.tellJoiner, State.queueControl]
@[simp] theorem tellJoiner_region (r : ServingRecord) : (s.tellJoiner r).region = s.region := by dsimp only [State.tellJoiner, State.queueControl]
@[simp] theorem tellJoiner_completion (r : ServingRecord) : (s.tellJoiner r).completion = s.completion := by dsimp only [State.tellJoiner, State.queueControl]
@[simp] theorem tellJoiner_inFlight (r : ServingRecord) : (s.tellJoiner r).inFlight = s.inFlight := by dsimp only [State.tellJoiner, State.queueControl]
@[simp] theorem tellJoiner_transmitter (r : ServingRecord) : (s.tellJoiner r).transmitter = s.transmitter := by dsimp only [State.tellJoiner, State.queueControl]
@[simp] theorem tellJoiner_receiver (r : ServingRecord) : (s.tellJoiner r).receiver = s.receiver := by dsimp only [State.tellJoiner, State.queueControl]
@[simp] theorem tellJoiner_clock (r : ServingRecord) : (s.tellJoiner r).clock = s.clock := by dsimp only [State.tellJoiner, State.queueControl]
@[simp] theorem tellJoiner_roster (r : ServingRecord) : (s.tellJoiner r).roster = s.roster := by dsimp only [State.tellJoiner, State.queueControl]
@[simp] theorem tellJoiner_outbound (r : ServingRecord) : (s.tellJoiner r).outbound = s.outbound := by dsimp only [State.tellJoiner, State.queueControl]
@[simp] theorem tellJoiner_filler (r : ServingRecord) : (s.tellJoiner r).filler = s.filler := by dsimp only [State.tellJoiner, State.queueControl]
@[simp] theorem tellJoiner_lastOpened (r : ServingRecord) : (s.tellJoiner r).lastOpened = s.lastOpened := by dsimp only [State.tellJoiner, State.queueControl]
@[simp] theorem tellJoiner_account (r : ServingRecord) : (s.tellJoiner r).account = s.account := by dsimp only [State.tellJoiner, State.queueControl]
@[simp] theorem tellJoiner_resync (r : ServingRecord) : (s.tellJoiner r).resync = s.resync := by dsimp only [State.tellJoiner, State.queueControl]
@[simp] theorem tellJoiner_catchUp (r : ServingRecord) : (s.tellJoiner r).catchUp = s.catchUp := by dsimp only [State.tellJoiner, State.queueControl]
@[simp] theorem tellJoiner_serving (r : ServingRecord) : (s.tellJoiner r).serving = s.serving := by dsimp only [State.tellJoiner, State.queueControl]
@[simp] theorem tellJoiner_turn (r : ServingRecord) : (s.tellJoiner r).turn = s.turn := by dsimp only [State.tellJoiner, State.queueControl]
@[simp] theorem tellJoiner_notices (r : ServingRecord) : (s.tellJoiner r).notices = s.notices := by dsimp only [State.tellJoiner, State.queueControl]
@[simp] theorem tellJoiner_events (r : ServingRecord) : (s.tellJoiner r).events = s.events := by dsimp only [State.tellJoiner, State.queueControl]
@[simp] theorem tellJoiner_eventOverflow (r : ServingRecord) : (s.tellJoiner r).eventOverflow = s.eventOverflow := by dsimp only [State.tellJoiner, State.queueControl]
@[simp] theorem tellJoiner_pending (r : ServingRecord) : (s.tellJoiner r).pending = s.pending := by dsimp only [State.tellJoiner, State.queueControl]

/-! ### elapse -/

@[simp] theorem elapse_station (n : Nat) : (s.elapse n).station = s.station := by dsimp only [State.elapse]
@[simp] theorem elapse_leavePending (n : Nat) : (s.elapse n).leavePending = s.leavePending := by dsimp only [State.elapse]
@[simp] theorem elapse_openFailures (n : Nat) : (s.elapse n).openFailures = s.openFailures := by dsimp only [State.elapse]
@[simp] theorem elapse_profile (n : Nat) : (s.elapse n).profile = s.profile := by dsimp only [State.elapse]
@[simp] theorem elapse_windows (n : Nat) : (s.elapse n).windows = s.windows := by dsimp only [State.elapse]
@[simp] theorem elapse_store (n : Nat) : (s.elapse n).store = s.store := by dsimp only [State.elapse]
@[simp] theorem elapse_initPass (n : Nat) : (s.elapse n).initPass = s.initPass := by dsimp only [State.elapse]
@[simp] theorem elapse_frameClaims (n : Nat) : (s.elapse n).frameClaims = s.frameClaims := by dsimp only [State.elapse]
@[simp] theorem elapse_copyRead (n : Nat) : (s.elapse n).copyRead = s.copyRead := by dsimp only [State.elapse]
@[simp] theorem elapse_hostClaim (n : Nat) : (s.elapse n).hostClaim = s.hostClaim := by dsimp only [State.elapse]
@[simp] theorem elapse_busResponse (n : Nat) : (s.elapse n).busResponse = s.busResponse := by dsimp only [State.elapse]
@[simp] theorem elapse_region (n : Nat) : (s.elapse n).region = s.region := by dsimp only [State.elapse]
@[simp] theorem elapse_completion (n : Nat) : (s.elapse n).completion = s.completion := by dsimp only [State.elapse]
@[simp] theorem elapse_inFlight (n : Nat) : (s.elapse n).inFlight = s.inFlight := by dsimp only [State.elapse]
@[simp] theorem elapse_transmitter (n : Nat) : (s.elapse n).transmitter = s.transmitter := by dsimp only [State.elapse]
@[simp] theorem elapse_receiver (n : Nat) : (s.elapse n).receiver = s.receiver := by dsimp only [State.elapse]
@[simp] theorem elapse_roster (n : Nat) : (s.elapse n).roster = s.roster := by dsimp only [State.elapse]
@[simp] theorem elapse_outbound (n : Nat) : (s.elapse n).outbound = s.outbound := by dsimp only [State.elapse]
@[simp] theorem elapse_control (n : Nat) : (s.elapse n).control = s.control := by dsimp only [State.elapse]
@[simp] theorem elapse_lastOpened (n : Nat) : (s.elapse n).lastOpened = s.lastOpened := by dsimp only [State.elapse]
@[simp] theorem elapse_account (n : Nat) : (s.elapse n).account = s.account := by dsimp only [State.elapse]
@[simp] theorem elapse_resync (n : Nat) : (s.elapse n).resync = s.resync := by dsimp only [State.elapse]
@[simp] theorem elapse_catchUp (n : Nat) : (s.elapse n).catchUp = s.catchUp := by dsimp only [State.elapse]
@[simp] theorem elapse_serving (n : Nat) : (s.elapse n).serving = s.serving := by dsimp only [State.elapse]
@[simp] theorem elapse_turn (n : Nat) : (s.elapse n).turn = s.turn := by dsimp only [State.elapse]
@[simp] theorem elapse_notices (n : Nat) : (s.elapse n).notices = s.notices := by dsimp only [State.elapse]
@[simp] theorem elapse_events (n : Nat) : (s.elapse n).events = s.events := by dsimp only [State.elapse]
@[simp] theorem elapse_eventOverflow (n : Nat) : (s.elapse n).eventOverflow = s.eventOverflow := by dsimp only [State.elapse]
@[simp] theorem elapse_pending (n : Nat) : (s.elapse n).pending = s.pending := by dsimp only [State.elapse]
@[simp] theorem elapse_clock_round (n : Nat) : (s.elapse n).clock.round = s.clock.round := by dsimp only [State.elapse]
@[simp] theorem elapse_clock_endedRound (n : Nat) : (s.elapse n).clock.endedRound = s.clock.endedRound := by dsimp only [State.elapse]
@[simp] theorem elapse_clock_misalignedCount (n : Nat) : (s.elapse n).clock.misalignedCount = s.clock.misalignedCount := by dsimp only [State.elapse]
@[simp] theorem elapse_clock_onTimeMark (n : Nat) : (s.elapse n).clock.onTimeMark = s.clock.onTimeMark := by dsimp only [State.elapse]
@[simp] theorem elapse_clock_misalignedMark (n : Nat) : (s.elapse n).clock.misalignedMark = s.clock.misalignedMark := by dsimp only [State.elapse]
@[simp] theorem elapse_clock_syncLoss (n : Nat) : (s.elapse n).clock.syncLoss = s.clock.syncLoss := by dsimp only [State.elapse]
@[simp] theorem elapse_clock_quiet (n : Nat) : (s.elapse n).clock.quiet = s.clock.quiet := by dsimp only [State.elapse]
@[simp] theorem elapse_clock_join (n : Nat) : (s.elapse n).clock.join = s.clock.join := by dsimp only [State.elapse]
@[simp] theorem elapse_clock_standoff (n : Nat) : (s.elapse n).clock.standoff = s.clock.standoff := by dsimp only [State.elapse]
@[simp] theorem elapse_clock_foreignMark (n : Nat) : (s.elapse n).clock.foreignMark = s.clock.foreignMark := by dsimp only [State.elapse]

/-! ### passTo -/

@[simp] theorem passTo_station (n : Nat) : (s.passTo n).station = s.station := by unfold State.passTo; split <;> rfl
@[simp] theorem passTo_leavePending (n : Nat) : (s.passTo n).leavePending = s.leavePending := by unfold State.passTo; split <;> rfl
@[simp] theorem passTo_openFailures (n : Nat) : (s.passTo n).openFailures = s.openFailures := by unfold State.passTo; split <;> rfl
@[simp] theorem passTo_profile (n : Nat) : (s.passTo n).profile = s.profile := by unfold State.passTo; split <;> rfl
@[simp] theorem passTo_windows (n : Nat) : (s.passTo n).windows = s.windows := by unfold State.passTo; split <;> rfl
@[simp] theorem passTo_store (n : Nat) : (s.passTo n).store = s.store := by unfold State.passTo; split <;> rfl
@[simp] theorem passTo_initPass (n : Nat) : (s.passTo n).initPass = s.initPass := by unfold State.passTo; split <;> rfl
@[simp] theorem passTo_frameClaims (n : Nat) : (s.passTo n).frameClaims = s.frameClaims := by unfold State.passTo; split <;> rfl
@[simp] theorem passTo_copyRead (n : Nat) : (s.passTo n).copyRead = s.copyRead := by unfold State.passTo; split <;> rfl
@[simp] theorem passTo_hostClaim (n : Nat) : (s.passTo n).hostClaim = s.hostClaim := by unfold State.passTo; split <;> rfl
@[simp] theorem passTo_busResponse (n : Nat) : (s.passTo n).busResponse = s.busResponse := by unfold State.passTo; split <;> rfl
@[simp] theorem passTo_region (n : Nat) : (s.passTo n).region = s.region := by unfold State.passTo; split <;> rfl
@[simp] theorem passTo_completion (n : Nat) : (s.passTo n).completion = s.completion := by unfold State.passTo; split <;> rfl
@[simp] theorem passTo_inFlight (n : Nat) : (s.passTo n).inFlight = s.inFlight := by unfold State.passTo; split <;> rfl
@[simp] theorem passTo_transmitter (n : Nat) : (s.passTo n).transmitter = s.transmitter := by unfold State.passTo; split <;> rfl
@[simp] theorem passTo_receiver (n : Nat) : (s.passTo n).receiver = s.receiver := by unfold State.passTo; split <;> rfl
@[simp] theorem passTo_roster (n : Nat) : (s.passTo n).roster = s.roster := by unfold State.passTo; split <;> rfl
@[simp] theorem passTo_outbound (n : Nat) : (s.passTo n).outbound = s.outbound := by unfold State.passTo; split <;> rfl
@[simp] theorem passTo_control (n : Nat) : (s.passTo n).control = s.control := by unfold State.passTo; split <;> rfl
@[simp] theorem passTo_lastOpened (n : Nat) : (s.passTo n).lastOpened = s.lastOpened := by unfold State.passTo; split <;> rfl
@[simp] theorem passTo_account (n : Nat) : (s.passTo n).account = s.account := by unfold State.passTo; split <;> rfl
@[simp] theorem passTo_resync (n : Nat) : (s.passTo n).resync = s.resync := by unfold State.passTo; split <;> rfl
@[simp] theorem passTo_catchUp (n : Nat) : (s.passTo n).catchUp = s.catchUp := by unfold State.passTo; split <;> rfl
@[simp] theorem passTo_serving (n : Nat) : (s.passTo n).serving = s.serving := by unfold State.passTo; split <;> rfl
@[simp] theorem passTo_turn (n : Nat) : (s.passTo n).turn = s.turn := by unfold State.passTo; split <;> rfl
@[simp] theorem passTo_notices (n : Nat) : (s.passTo n).notices = s.notices := by unfold State.passTo; split <;> rfl
@[simp] theorem passTo_events (n : Nat) : (s.passTo n).events = s.events := by unfold State.passTo; split <;> rfl
@[simp] theorem passTo_eventOverflow (n : Nat) : (s.passTo n).eventOverflow = s.eventOverflow := by unfold State.passTo; split <;> rfl
@[simp] theorem passTo_pending (n : Nat) : (s.passTo n).pending = s.pending := by unfold State.passTo; split <;> rfl
@[simp] theorem passTo_clock_round (n : Nat) : (s.passTo n).clock.round = s.clock.round := by unfold State.passTo; split <;> rfl
@[simp] theorem passTo_clock_endedRound (n : Nat) : (s.passTo n).clock.endedRound = s.clock.endedRound := by unfold State.passTo; split <;> rfl
@[simp] theorem passTo_clock_misalignedCount (n : Nat) : (s.passTo n).clock.misalignedCount = s.clock.misalignedCount := by unfold State.passTo; split <;> rfl
@[simp] theorem passTo_clock_onTimeMark (n : Nat) : (s.passTo n).clock.onTimeMark = s.clock.onTimeMark := by unfold State.passTo; split <;> rfl
@[simp] theorem passTo_clock_misalignedMark (n : Nat) : (s.passTo n).clock.misalignedMark = s.clock.misalignedMark := by unfold State.passTo; split <;> rfl
@[simp] theorem passTo_clock_syncLoss (n : Nat) : (s.passTo n).clock.syncLoss = s.clock.syncLoss := by unfold State.passTo; split <;> rfl
@[simp] theorem passTo_clock_quiet (n : Nat) : (s.passTo n).clock.quiet = s.clock.quiet := by unfold State.passTo; split <;> rfl
@[simp] theorem passTo_clock_join (n : Nat) : (s.passTo n).clock.join = s.clock.join := by unfold State.passTo; split <;> rfl
@[simp] theorem passTo_clock_standoff (n : Nat) : (s.passTo n).clock.standoff = s.clock.standoff := by unfold State.passTo; split <;> rfl
@[simp] theorem passTo_clock_foreignMark (n : Nat) : (s.passTo n).clock.foreignMark = s.clock.foreignMark := by unfold State.passTo; split <;> rfl
@[simp] theorem passTo_clock_position (n : Nat) : (s.passTo n).clock.position = some n := by unfold State.passTo; split <;> rfl

/-! ### driveOut -/

@[simp] theorem driveOut_station (t : Sending) : (s.driveOut t).station = s.station := by unfold State.driveOut; split <;> rfl
@[simp] theorem driveOut_leavePending (t : Sending) : (s.driveOut t).leavePending = s.leavePending := by unfold State.driveOut; split <;> rfl
@[simp] theorem driveOut_openFailures (t : Sending) : (s.driveOut t).openFailures = s.openFailures := by unfold State.driveOut; split <;> rfl
@[simp] theorem driveOut_profile (t : Sending) : (s.driveOut t).profile = s.profile := by unfold State.driveOut; split <;> rfl
@[simp] theorem driveOut_windows (t : Sending) : (s.driveOut t).windows = s.windows := by unfold State.driveOut; split <;> rfl
@[simp] theorem driveOut_store (t : Sending) : (s.driveOut t).store = s.store := by unfold State.driveOut; split <;> rfl
@[simp] theorem driveOut_initPass (t : Sending) : (s.driveOut t).initPass = s.initPass := by unfold State.driveOut; split <;> rfl
@[simp] theorem driveOut_frameClaims (t : Sending) : (s.driveOut t).frameClaims = s.frameClaims := by unfold State.driveOut; split <;> rfl
@[simp] theorem driveOut_copyRead (t : Sending) : (s.driveOut t).copyRead = s.copyRead := by unfold State.driveOut; split <;> rfl
@[simp] theorem driveOut_hostClaim (t : Sending) : (s.driveOut t).hostClaim = s.hostClaim := by unfold State.driveOut; split <;> rfl
@[simp] theorem driveOut_busResponse (t : Sending) : (s.driveOut t).busResponse = s.busResponse := by unfold State.driveOut; split <;> rfl
@[simp] theorem driveOut_region (t : Sending) : (s.driveOut t).region = s.region := by unfold State.driveOut; split <;> rfl
@[simp] theorem driveOut_completion (t : Sending) : (s.driveOut t).completion = s.completion := by unfold State.driveOut; split <;> rfl
@[simp] theorem driveOut_inFlight (t : Sending) : (s.driveOut t).inFlight = s.inFlight := by unfold State.driveOut; split <;> rfl
@[simp] theorem driveOut_transmitter (t : Sending) : (s.driveOut t).transmitter = s.transmitter := by unfold State.driveOut; split <;> rfl
@[simp] theorem driveOut_receiver (t : Sending) : (s.driveOut t).receiver = s.receiver := by unfold State.driveOut; split <;> rfl
@[simp] theorem driveOut_roster (t : Sending) : (s.driveOut t).roster = s.roster := by unfold State.driveOut; split <;> rfl
@[simp] theorem driveOut_outbound (t : Sending) : (s.driveOut t).outbound = s.outbound := by unfold State.driveOut; split <;> rfl
@[simp] theorem driveOut_control (t : Sending) : (s.driveOut t).control = s.control := by unfold State.driveOut; split <;> rfl
@[simp] theorem driveOut_lastOpened (t : Sending) : (s.driveOut t).lastOpened = s.lastOpened := by unfold State.driveOut; split <;> rfl
@[simp] theorem driveOut_account (t : Sending) : (s.driveOut t).account = s.account := by unfold State.driveOut; split <;> rfl
@[simp] theorem driveOut_resync (t : Sending) : (s.driveOut t).resync = s.resync := by unfold State.driveOut; split <;> rfl
@[simp] theorem driveOut_catchUp (t : Sending) : (s.driveOut t).catchUp = s.catchUp := by unfold State.driveOut; split <;> rfl
@[simp] theorem driveOut_serving (t : Sending) : (s.driveOut t).serving = s.serving := by unfold State.driveOut; split <;> rfl
@[simp] theorem driveOut_turn (t : Sending) : (s.driveOut t).turn = s.turn := by unfold State.driveOut; split <;> rfl
@[simp] theorem driveOut_notices (t : Sending) : (s.driveOut t).notices = s.notices := by unfold State.driveOut; split <;> rfl
@[simp] theorem driveOut_events (t : Sending) : (s.driveOut t).events = s.events := by unfold State.driveOut; split <;> rfl
@[simp] theorem driveOut_eventOverflow (t : Sending) : (s.driveOut t).eventOverflow = s.eventOverflow := by unfold State.driveOut; split <;> rfl
@[simp] theorem driveOut_pending (t : Sending) : (s.driveOut t).pending = s.pending := by unfold State.driveOut; split <;> rfl
@[simp] theorem driveOut_clock_round (t : Sending) : (s.driveOut t).clock.round = s.clock.round := by unfold State.driveOut; split <;> rfl
@[simp] theorem driveOut_clock_endedRound (t : Sending) : (s.driveOut t).clock.endedRound = s.clock.endedRound := by unfold State.driveOut; split <;> rfl
@[simp] theorem driveOut_clock_misalignedCount (t : Sending) : (s.driveOut t).clock.misalignedCount = s.clock.misalignedCount := by unfold State.driveOut; split <;> rfl
@[simp] theorem driveOut_clock_onTimeMark (t : Sending) : (s.driveOut t).clock.onTimeMark = s.clock.onTimeMark := by unfold State.driveOut; split <;> rfl
@[simp] theorem driveOut_clock_misalignedMark (t : Sending) : (s.driveOut t).clock.misalignedMark = s.clock.misalignedMark := by unfold State.driveOut; split <;> rfl
@[simp] theorem driveOut_clock_syncLoss (t : Sending) : (s.driveOut t).clock.syncLoss = s.clock.syncLoss := by unfold State.driveOut; split <;> rfl
@[simp] theorem driveOut_clock_quiet (t : Sending) : (s.driveOut t).clock.quiet = s.clock.quiet := by unfold State.driveOut; split <;> rfl
@[simp] theorem driveOut_clock_join (t : Sending) : (s.driveOut t).clock.join = s.clock.join := by unfold State.driveOut; split <;> rfl
@[simp] theorem driveOut_clock_standoff (t : Sending) : (s.driveOut t).clock.standoff = s.clock.standoff := by unfold State.driveOut; split <;> rfl
@[simp] theorem driveOut_clock_foreignMark (t : Sending) : (s.driveOut t).clock.foreignMark = s.clock.foreignMark := by unfold State.driveOut; split <;> rfl

/-! ### endFrame -/

@[simp] theorem endFrame_station (t : Sending) : (s.endFrame t).station = s.station := by unfold State.endFrame State.driveOut; split <;> rfl
@[simp] theorem endFrame_leavePending (t : Sending) : (s.endFrame t).leavePending = s.leavePending := by unfold State.endFrame State.driveOut; split <;> rfl
@[simp] theorem endFrame_openFailures (t : Sending) : (s.endFrame t).openFailures = s.openFailures := by unfold State.endFrame State.driveOut; split <;> rfl
@[simp] theorem endFrame_profile (t : Sending) : (s.endFrame t).profile = s.profile := by unfold State.endFrame State.driveOut; split <;> rfl
@[simp] theorem endFrame_windows (t : Sending) : (s.endFrame t).windows = s.windows := by unfold State.endFrame State.driveOut; split <;> rfl
@[simp] theorem endFrame_store (t : Sending) : (s.endFrame t).store = s.store := by unfold State.endFrame State.driveOut; split <;> rfl
@[simp] theorem endFrame_initPass (t : Sending) : (s.endFrame t).initPass = s.initPass := by unfold State.endFrame State.driveOut; split <;> rfl
@[simp] theorem endFrame_frameClaims (t : Sending) : (s.endFrame t).frameClaims = s.frameClaims := by unfold State.endFrame State.driveOut; split <;> rfl
@[simp] theorem endFrame_copyRead (t : Sending) : (s.endFrame t).copyRead = s.copyRead := by unfold State.endFrame State.driveOut; split <;> rfl
@[simp] theorem endFrame_hostClaim (t : Sending) : (s.endFrame t).hostClaim = s.hostClaim := by unfold State.endFrame State.driveOut; split <;> rfl
@[simp] theorem endFrame_busResponse (t : Sending) : (s.endFrame t).busResponse = s.busResponse := by unfold State.endFrame State.driveOut; split <;> rfl
@[simp] theorem endFrame_region (t : Sending) : (s.endFrame t).region = s.region := by unfold State.endFrame State.driveOut; split <;> rfl
@[simp] theorem endFrame_completion (t : Sending) : (s.endFrame t).completion = s.completion := by unfold State.endFrame State.driveOut; split <;> rfl
@[simp] theorem endFrame_inFlight (t : Sending) : (s.endFrame t).inFlight = s.inFlight := by unfold State.endFrame State.driveOut; split <;> rfl
@[simp] theorem endFrame_roster (t : Sending) : (s.endFrame t).roster = s.roster := by unfold State.endFrame State.driveOut; split <;> rfl
@[simp] theorem endFrame_outbound (t : Sending) : (s.endFrame t).outbound = s.outbound := by unfold State.endFrame State.driveOut; split <;> rfl
@[simp] theorem endFrame_control (t : Sending) : (s.endFrame t).control = s.control := by unfold State.endFrame State.driveOut; split <;> rfl
@[simp] theorem endFrame_lastOpened (t : Sending) : (s.endFrame t).lastOpened = s.lastOpened := by unfold State.endFrame State.driveOut; split <;> rfl
@[simp] theorem endFrame_account (t : Sending) : (s.endFrame t).account = s.account := by unfold State.endFrame State.driveOut; split <;> rfl
@[simp] theorem endFrame_resync (t : Sending) : (s.endFrame t).resync = s.resync := by unfold State.endFrame State.driveOut; split <;> rfl
@[simp] theorem endFrame_catchUp (t : Sending) : (s.endFrame t).catchUp = s.catchUp := by unfold State.endFrame State.driveOut; split <;> rfl
@[simp] theorem endFrame_serving (t : Sending) : (s.endFrame t).serving = s.serving := by unfold State.endFrame State.driveOut; split <;> rfl
@[simp] theorem endFrame_turn (t : Sending) : (s.endFrame t).turn = s.turn := by unfold State.endFrame State.driveOut; split <;> rfl
@[simp] theorem endFrame_notices (t : Sending) : (s.endFrame t).notices = s.notices := by unfold State.endFrame State.driveOut; split <;> rfl
@[simp] theorem endFrame_events (t : Sending) : (s.endFrame t).events = s.events := by unfold State.endFrame State.driveOut; split <;> rfl
@[simp] theorem endFrame_eventOverflow (t : Sending) : (s.endFrame t).eventOverflow = s.eventOverflow := by unfold State.endFrame State.driveOut; split <;> rfl
@[simp] theorem endFrame_pending (t : Sending) : (s.endFrame t).pending = s.pending := by unfold State.endFrame State.driveOut; split <;> rfl
@[simp] theorem endFrame_clock_round (t : Sending) : (s.endFrame t).clock.round = s.clock.round := by unfold State.endFrame State.driveOut; split <;> rfl
@[simp] theorem endFrame_clock_endedRound (t : Sending) : (s.endFrame t).clock.endedRound = s.clock.endedRound := by unfold State.endFrame State.driveOut; split <;> rfl
@[simp] theorem endFrame_clock_misalignedCount (t : Sending) : (s.endFrame t).clock.misalignedCount = s.clock.misalignedCount := by unfold State.endFrame State.driveOut; split <;> rfl
@[simp] theorem endFrame_clock_onTimeMark (t : Sending) : (s.endFrame t).clock.onTimeMark = s.clock.onTimeMark := by unfold State.endFrame State.driveOut; split <;> rfl
@[simp] theorem endFrame_clock_misalignedMark (t : Sending) : (s.endFrame t).clock.misalignedMark = s.clock.misalignedMark := by unfold State.endFrame State.driveOut; split <;> rfl
@[simp] theorem endFrame_clock_syncLoss (t : Sending) : (s.endFrame t).clock.syncLoss = s.clock.syncLoss := by unfold State.endFrame State.driveOut; split <;> rfl
@[simp] theorem endFrame_clock_quiet (t : Sending) : (s.endFrame t).clock.quiet = s.clock.quiet := by unfold State.endFrame State.driveOut; split <;> rfl
@[simp] theorem endFrame_clock_join (t : Sending) : (s.endFrame t).clock.join = s.clock.join := by unfold State.endFrame State.driveOut; split <;> rfl
@[simp] theorem endFrame_clock_standoff (t : Sending) : (s.endFrame t).clock.standoff = s.clock.standoff := by unfold State.endFrame State.driveOut; split <;> rfl
@[simp] theorem endFrame_clock_foreignMark (t : Sending) : (s.endFrame t).clock.foreignMark = s.clock.foreignMark := by unfold State.endFrame State.driveOut; split <;> rfl

/-! ### cbegReported -/

@[simp] theorem cbegReported_station (joiner : StationNo) (w : WindowNo) : (s.cbegReported joiner w).station = s.station := by dsimp only [State.cbegReported]
@[simp] theorem cbegReported_leavePending (joiner : StationNo) (w : WindowNo) : (s.cbegReported joiner w).leavePending = s.leavePending := by dsimp only [State.cbegReported]
@[simp] theorem cbegReported_openFailures (joiner : StationNo) (w : WindowNo) : (s.cbegReported joiner w).openFailures = s.openFailures := by dsimp only [State.cbegReported]
@[simp] theorem cbegReported_profile (joiner : StationNo) (w : WindowNo) : (s.cbegReported joiner w).profile = s.profile := by dsimp only [State.cbegReported]
@[simp] theorem cbegReported_windows (joiner : StationNo) (w : WindowNo) : (s.cbegReported joiner w).windows = s.windows := by dsimp only [State.cbegReported]
@[simp] theorem cbegReported_store (joiner : StationNo) (w : WindowNo) : (s.cbegReported joiner w).store = s.store := by dsimp only [State.cbegReported]
@[simp] theorem cbegReported_initPass (joiner : StationNo) (w : WindowNo) : (s.cbegReported joiner w).initPass = s.initPass := by dsimp only [State.cbegReported]
@[simp] theorem cbegReported_frameClaims (joiner : StationNo) (w : WindowNo) : (s.cbegReported joiner w).frameClaims = s.frameClaims := by dsimp only [State.cbegReported]
@[simp] theorem cbegReported_copyRead (joiner : StationNo) (w : WindowNo) : (s.cbegReported joiner w).copyRead = s.copyRead := by dsimp only [State.cbegReported]
@[simp] theorem cbegReported_hostClaim (joiner : StationNo) (w : WindowNo) : (s.cbegReported joiner w).hostClaim = s.hostClaim := by dsimp only [State.cbegReported]
@[simp] theorem cbegReported_busResponse (joiner : StationNo) (w : WindowNo) : (s.cbegReported joiner w).busResponse = s.busResponse := by dsimp only [State.cbegReported]
@[simp] theorem cbegReported_region (joiner : StationNo) (w : WindowNo) : (s.cbegReported joiner w).region = s.region := by dsimp only [State.cbegReported]
@[simp] theorem cbegReported_completion (joiner : StationNo) (w : WindowNo) : (s.cbegReported joiner w).completion = s.completion := by dsimp only [State.cbegReported]
@[simp] theorem cbegReported_inFlight (joiner : StationNo) (w : WindowNo) : (s.cbegReported joiner w).inFlight = s.inFlight := by dsimp only [State.cbegReported]
@[simp] theorem cbegReported_transmitter (joiner : StationNo) (w : WindowNo) : (s.cbegReported joiner w).transmitter = s.transmitter := by dsimp only [State.cbegReported]
@[simp] theorem cbegReported_receiver (joiner : StationNo) (w : WindowNo) : (s.cbegReported joiner w).receiver = s.receiver := by dsimp only [State.cbegReported]
@[simp] theorem cbegReported_clock (joiner : StationNo) (w : WindowNo) : (s.cbegReported joiner w).clock = s.clock := by dsimp only [State.cbegReported]
@[simp] theorem cbegReported_roster (joiner : StationNo) (w : WindowNo) : (s.cbegReported joiner w).roster = s.roster := by dsimp only [State.cbegReported]
@[simp] theorem cbegReported_outbound (joiner : StationNo) (w : WindowNo) : (s.cbegReported joiner w).outbound = s.outbound := by dsimp only [State.cbegReported]
@[simp] theorem cbegReported_control (joiner : StationNo) (w : WindowNo) : (s.cbegReported joiner w).control = s.control := by dsimp only [State.cbegReported]
@[simp] theorem cbegReported_filler (joiner : StationNo) (w : WindowNo) : (s.cbegReported joiner w).filler = s.filler := by dsimp only [State.cbegReported]
@[simp] theorem cbegReported_lastOpened (joiner : StationNo) (w : WindowNo) : (s.cbegReported joiner w).lastOpened = s.lastOpened := by dsimp only [State.cbegReported]
@[simp] theorem cbegReported_account (joiner : StationNo) (w : WindowNo) : (s.cbegReported joiner w).account = s.account := by dsimp only [State.cbegReported]
@[simp] theorem cbegReported_resync (joiner : StationNo) (w : WindowNo) : (s.cbegReported joiner w).resync = s.resync := by dsimp only [State.cbegReported]
@[simp] theorem cbegReported_catchUp (joiner : StationNo) (w : WindowNo) : (s.cbegReported joiner w).catchUp = s.catchUp := by dsimp only [State.cbegReported]
@[simp] theorem cbegReported_turn (joiner : StationNo) (w : WindowNo) : (s.cbegReported joiner w).turn = s.turn := by dsimp only [State.cbegReported]
@[simp] theorem cbegReported_notices (joiner : StationNo) (w : WindowNo) : (s.cbegReported joiner w).notices = s.notices := by dsimp only [State.cbegReported]
@[simp] theorem cbegReported_events (joiner : StationNo) (w : WindowNo) : (s.cbegReported joiner w).events = s.events := by dsimp only [State.cbegReported]
@[simp] theorem cbegReported_eventOverflow (joiner : StationNo) (w : WindowNo) : (s.cbegReported joiner w).eventOverflow = s.eventOverflow := by dsimp only [State.cbegReported]
@[simp] theorem cbegReported_pending (joiner : StationNo) (w : WindowNo) : (s.cbegReported joiner w).pending = s.pending := by dsimp only [State.cbegReported]

/-! ### What the updates write -/

@[simp] theorem enter_station (next : StationState) (cause : StationCause) (n : Nat) :
    (s.enter next cause n).station = next := rfl
@[simp] theorem setReceiver_receiver (r : Receiver) : (s.setReceiver r).receiver = r := rfl
@[simp] theorem elapse_filler (n : Nat) : (s.elapse n).filler = s.filler.map fun f => { f with count := f.count + n } := rfl
@[simp] theorem setFilling_filler (f : Filling) : (s.setFilling f).filler = some f := rfl
@[simp] theorem respond_busResponse (r : BusResponse) : (s.respond r).busResponse = some r := rfl
@[simp] theorem appendOutbound_outbound (e : OutboundEntry) : (s.appendOutbound e).outbound = s.outbound ++ [e] := rfl
@[simp] theorem popOutbound_outbound : s.popOutbound.outbound = s.outbound.tail := rfl
@[simp] theorem endFrame_transmitter (t : Sending) : (s.endFrame t).transmitter = none := rfl
@[simp] theorem releaseCopyRead_copyRead : s.releaseCopyRead.copyRead = none := rfl

/-- The record of a window after a record is replaced. -/
theorem setWindow_window (w v : WindowNo) (r : WindowRecord) :
    (s.setWindow w r).window v = if w = v then r else s.window v := by
  simp only [State.setWindow, State.window, Fin.getElem_fin, Vector.getElem_set, Fin.ext_iff]

@[simp] theorem setWindow_window_self (w : WindowNo) (r : WindowRecord) : (s.setWindow w r).window w = r := by
  simp [setWindow_window]

/-- The record of a window after every record is changed. -/
@[simp] theorem mapWindows_window (f : WindowRecord → WindowRecord) (w : WindowNo) :
    (s.mapWindows f).window w = f (s.window w) := by
  simp [State.mapWindows, State.window]

/-- Two states with the same records have the same record of each window. -/
theorem window_congr {t : State} (h : t.windows = s.windows) (w : WindowNo) : t.window w = s.window w := by
  simp [State.window, h]

/-- Two states are equal when they agree field by field. -/
theorem state_ext {s t : State}
    (h_station : s.station = t.station)
    (h_leavePending : s.leavePending = t.leavePending)
    (h_openFailures : s.openFailures = t.openFailures)
    (h_profile : s.profile = t.profile)
    (h_windows : s.windows = t.windows)
    (h_store : s.store = t.store)
    (h_initPass : s.initPass = t.initPass)
    (h_frameClaims : s.frameClaims = t.frameClaims)
    (h_copyRead : s.copyRead = t.copyRead)
    (h_hostClaim : s.hostClaim = t.hostClaim)
    (h_busResponse : s.busResponse = t.busResponse)
    (h_region : s.region = t.region)
    (h_completion : s.completion = t.completion)
    (h_inFlight : s.inFlight = t.inFlight)
    (h_transmitter : s.transmitter = t.transmitter)
    (h_receiver : s.receiver = t.receiver)
    (h_clock : s.clock = t.clock)
    (h_roster : s.roster = t.roster)
    (h_outbound : s.outbound = t.outbound)
    (h_control : s.control = t.control)
    (h_filler : s.filler = t.filler)
    (h_lastOpened : s.lastOpened = t.lastOpened)
    (h_account : s.account = t.account)
    (h_resync : s.resync = t.resync)
    (h_catchUp : s.catchUp = t.catchUp)
    (h_serving : s.serving = t.serving)
    (h_turn : s.turn = t.turn)
    (h_notices : s.notices = t.notices)
    (h_events : s.events = t.events)
    (h_eventOverflow : s.eventOverflow = t.eventOverflow)
    (h_pending : s.pending = t.pending) : s = t := by
  cases s; cases t; simp_all

end Sys2Proof.Laws
end

