-- ==== Sys2Proof/Laws/Frames.lean ====
section
/-! SUPPORT. Laws/Frames.lean: what each shared operation can change at most, once for each, as one of six relations between
the state before and the state after; every command of the line keeps the host's side (exec_ofLine). -/

namespace Sys2Proof.Laws

open Sys2Proof Sys2Proof.Machine

/-! ## The relations -/

/-- The two states differ at most in the Control Queue, the Copy Server and the Slot Filler's place. -/
def CopySide (s t : State) : Prop :=
  t = { s with control := t.control, copyRead := t.copyRead, filler := t.filler, serving := t.serving,
               turn := t.turn }

theorem CopySide.refl (s : State) : CopySide s s := rfl

theorem CopySide.trans {s t u : State} (h1 : CopySide s t) (h2 : CopySide t u) : CopySide s u := by
  unfold CopySide at *; rw [h2, h1]

theorem CopySide.foldl {α : Type} {f : State → α → State} (hf : ∀ s a, CopySide s (f s a)) :
    ∀ (l : List α) (s : State), CopySide s (l.foldl f s)
  | [], s => .refl s
  | a :: l, s => (hf s a).trans (CopySide.foldl hf l (f s a))

/-- The two states differ at most in the event queue. -/
def EventSide (s t : State) : Prop :=
  t = { s with events := t.events, eventOverflow := t.eventOverflow }

theorem EventSide.refl (s : State) : EventSide s s := rfl

theorem EventSide.trans {s t u : State} (h1 : EventSide s t) (h2 : EventSide t u) : EventSide s u := by
  unfold EventSide at *; rw [h2, h1]

theorem EventSide.foldl {α : Type} {f : State → α → State} (hf : ∀ s a, EventSide s (f s a)) :
    ∀ (l : List α) (s : State), EventSide s (l.foldl f s)
  | [], s => .refl s
  | a :: l, s => (hf s a).trans (EventSide.foldl hf l (f s a))

/-- The two states differ at most in what a change of currency can: the copy side, the window records and the event queue. -/
def CurrencySide (s t : State) : Prop :=
  t = { s with control := t.control, copyRead := t.copyRead, filler := t.filler, serving := t.serving,
               turn := t.turn, windows := t.windows, events := t.events, eventOverflow := t.eventOverflow }

theorem CurrencySide.refl (s : State) : CurrencySide s s := rfl

theorem CurrencySide.trans {s t u : State} (h1 : CurrencySide s t) (h2 : CurrencySide t u) : CurrencySide s u := by
  unfold CurrencySide at *; rw [h2, h1]

theorem CurrencySide.foldl {α : Type} {f : State → α → State} (hf : ∀ s a, CurrencySide s (f s a)) :
    ∀ (l : List α) (s : State), CurrencySide s (l.foldl f s)
  | [], s => .refl s
  | a :: l, s => (hf s a).trans (CurrencySide.foldl hf l (f s a))

/-- The two states differ at most in what the catch-up of a window can: the currency side, the resync list and the catch-up record. -/
def CatchUpSide (s t : State) : Prop :=
  t = { s with control := t.control, copyRead := t.copyRead, filler := t.filler, serving := t.serving,
               turn := t.turn, windows := t.windows, events := t.events, eventOverflow := t.eventOverflow,
               resync := t.resync, catchUp := t.catchUp }

theorem CatchUpSide.refl (s : State) : CatchUpSide s s := rfl

theorem CatchUpSide.trans {s t u : State} (h1 : CatchUpSide s t) (h2 : CatchUpSide t u) : CatchUpSide s u := by
  unfold CatchUpSide at *; rw [h2, h1]

theorem CatchUpSide.foldl {α : Type} {f : State → α → State} (hf : ∀ s a, CatchUpSide s (f s a)) :
    ∀ (l : List α) (s : State), CatchUpSide s (l.foldl f s)
  | [], s => .refl s
  | a :: l, s => (hf s a).trans (CatchUpSide.foldl hf l (f s a))

/-- The two states differ at most in what a heard frame or a silence can: the catch-up side, the frame claims, the account, the notices and the Roster. -/
def ApplySide (s t : State) : Prop :=
  t = { s with control := t.control, copyRead := t.copyRead, filler := t.filler, serving := t.serving,
               turn := t.turn, windows := t.windows, events := t.events, eventOverflow := t.eventOverflow,
               resync := t.resync, catchUp := t.catchUp, frameClaims := t.frameClaims, account := t.account,
               notices := t.notices, roster := t.roster }

theorem ApplySide.refl (s : State) : ApplySide s s := rfl

theorem ApplySide.trans {s t u : State} (h1 : ApplySide s t) (h2 : ApplySide t u) : ApplySide s u := by
  unfold ApplySide at *; rw [h2, h1]

theorem ApplySide.foldl {α : Type} {f : State → α → State} (hf : ∀ s a, ApplySide s (f s a)) :
    ∀ (l : List α) (s : State), ApplySide s (l.foldl f s)
  | [], s => .refl s
  | a :: l, s => (hf s a).trans (ApplySide.foldl hf l (f s a))

/-- The two states differ at most in what a happening on the line can: everything but the profile, the store, the init pass, the host's access, the control region, the completion record, a CONFIGURE in flight and the waiting commands. -/
def LineSide (s t : State) : Prop :=
  t = { s with control := t.control, copyRead := t.copyRead, filler := t.filler, serving := t.serving,
               turn := t.turn, windows := t.windows, events := t.events, eventOverflow := t.eventOverflow,
               resync := t.resync, catchUp := t.catchUp, frameClaims := t.frameClaims, account := t.account,
               notices := t.notices, roster := t.roster, station := t.station, leavePending := t.leavePending,
               openFailures := t.openFailures, transmitter := t.transmitter, receiver := t.receiver,
               clock := t.clock, outbound := t.outbound, lastOpened := t.lastOpened }

theorem LineSide.refl (s : State) : LineSide s s := rfl

theorem LineSide.trans {s t u : State} (h1 : LineSide s t) (h2 : LineSide t u) : LineSide s u := by
  unfold LineSide at *; rw [h2, h1]

theorem LineSide.foldl {α : Type} {f : State → α → State} (hf : ∀ s a, LineSide s (f s a)) :
    ∀ (l : List α) (s : State), LineSide s (l.foldl f s)
  | [], s => .refl s
  | a :: l, s => (hf s a).trans (LineSide.foldl hf l (f s a))

theorem CopySide.toCurrencySide {s t : State} (h : CopySide s t) : CurrencySide s t := by unfold CopySide at h; unfold CurrencySide; rw [h]

theorem EventSide.toCurrencySide {s t : State} (h : EventSide s t) : CurrencySide s t := by unfold EventSide at h; unfold CurrencySide; rw [h]

theorem CurrencySide.toCatchUpSide {s t : State} (h : CurrencySide s t) : CatchUpSide s t := by unfold CurrencySide at h; unfold CatchUpSide; rw [h]

theorem CatchUpSide.toApplySide {s t : State} (h : CatchUpSide s t) : ApplySide s t := by unfold CatchUpSide at h; unfold ApplySide; rw [h]

theorem ApplySide.toLineSide {s t : State} (h : ApplySide s t) : LineSide s t := by unfold ApplySide at h; unfold LineSide; rw [h]

theorem CopySide.toCatchUpSide {s t : State} (h : CopySide s t) : CatchUpSide s t := h.toCurrencySide.toCatchUpSide

theorem EventSide.toCatchUpSide {s t : State} (h : EventSide s t) : CatchUpSide s t := h.toCurrencySide.toCatchUpSide

theorem CurrencySide.toApplySide {s t : State} (h : CurrencySide s t) : ApplySide s t := h.toCatchUpSide.toApplySide

theorem CatchUpSide.toLineSide {s t : State} (h : CatchUpSide s t) : LineSide s t := h.toApplySide.toLineSide

theorem CopySide.toApplySide {s t : State} (h : CopySide s t) : ApplySide s t := h.toCatchUpSide.toApplySide

theorem EventSide.toApplySide {s t : State} (h : EventSide s t) : ApplySide s t := h.toCatchUpSide.toApplySide

theorem CurrencySide.toLineSide {s t : State} (h : CurrencySide s t) : LineSide s t := h.toApplySide.toLineSide

theorem CopySide.toLineSide {s t : State} (h : CopySide s t) : LineSide s t := h.toApplySide.toLineSide

theorem EventSide.toLineSide {s t : State} (h : EventSide s t) : LineSide s t := h.toApplySide.toLineSide
/-! ## The copy side -/

theorem queueControl_side (s : State) (f : FrameBody) : CopySide s (s.queueControl f) := rfl

theorem unqueueControl_side (s : State) (f : FrameBody) : CopySide s (s.unqueueControl f) := rfl

theorem removeServing_side (s : State) (pair : StationNo × WindowNo) : CopySide s (s.removeServing pair) := rfl

theorem dropServing_side (s : State) (r : ServingRecord) : CopySide s (s.dropServing r) := rfl

theorem tellJoiner_side (s : State) (r : ServingRecord) : CopySide s (s.tellJoiner r) := rfl

theorem abortRecord_side (s : State) (r : ServingRecord) : CopySide s (s.abortRecord r) := rfl

theorem abortServing_side (s : State) (w : WindowNo) : CopySide s (s.abortServing w) :=
  CopySide.foldl abortRecord_side _ _

theorem abortAllServing_side (s : State) : CopySide s s.abortAllServing := by
  refine ((CopySide.foldl tellJoiner_side s.serving s).trans (CopySide.foldl dropServing_side s.serving _)).trans ?_
  exact rfl

theorem joinerDeparted_side (s : State) (station : StationNo) : CopySide s (s.joinerDeparted station) :=
  CopySide.foldl dropServing_side _ _

theorem clearOffer_side (s : State) (joiner : StationNo) (w : WindowNo) : CopySide s (s.clearOffer joiner w) := by
  unfold State.clearOffer; split
  · exact .refl s
  · exact dropServing_side s _

theorem createOffer_side (s : State) (joiner : StationNo) (w : WindowNo) (first last : BitVec 10) :
    CopySide s (s.createOffer joiner w first last) := by
  unfold State.createOffer; split <;> exact rfl

theorem takeCreq_side (s : State) (joiner : StationNo) (w : WindowNo) (first last : BitVec 10) :
    CopySide s (s.takeCreq joiner w first last) := by
  unfold State.takeCreq; split
  · exact (clearOffer_side s joiner w).trans (createOffer_side _ _ _ _ _)
  · exact .refl s

theorem withdrawOffer_side (s : State) (joiner : StationNo) (w : WindowNo) : CopySide s (s.withdrawOffer joiner w) := by
  unfold State.withdrawOffer; split
  · exact .refl s
  · split
    · exact .refl s
    · exact dropServing_side s _

theorem cbegReported_side (s : State) (joiner : StationNo) (w : WindowNo) : CopySide s (s.cbegReported joiner w) := rfl

theorem lapseOffers_side (s : State) : CopySide s s.lapseOffers := by
  unfold State.lapseOffers; split
  · exact CopySide.foldl dropServing_side _ _
  · exact .refl s

theorem advanceServing_side (s : State) (r : ServingRecord) (next : Nat) : CopySide s (s.advanceServing r next) := by
  unfold State.advanceServing; dsimp only; split <;> exact rfl

/-! ## Events -/

theorem appendEvent_side (s : State) (e : Event) : EventSide s (s.appendEvent e) := rfl

theorem event_side (s : State) (subject : Option Half) (detail : EventDetail) : EventSide s (s.event subject detail) := rfl

theorem fenceEvents_side (s : State) (flushed : Bool) (tags : List Half) : EventSide s (s.fenceEvents flushed tags) :=
  EventSide.foldl (fun s _ => event_side s _ _) _ _

theorem reported_side (s : State) (events : List Event) : EventSide s (s.reported events) :=
  EventSide.foldl appendEvent_side _ _

theorem coldEvents_side (s : State) : EventSide s s.coldEvents := EventSide.foldl (fun s _ => event_side s _ _) _ _

theorem configureEvents_side (s before : State) : EventSide s (s.configureEvents before) := by
  refine EventSide.foldl (fun t w => ?_) _ _
  split
  · exact .refl t
  · exact event_side t _ _

/-! ## Currency -/

theorem setWindow_side (s : State) (w : WindowNo) (r : WindowRecord) : CurrencySide s (s.setWindow w r) := rfl

theorem mapWindows_side (s : State) (f : WindowRecord → WindowRecord) : CurrencySide s (s.mapWindows f) := by
  unfold CurrencySide State.mapWindows; dsimp only

theorem changeCurrency_side (s : State) (w : WindowNo) (next : Currency) (attempts : Nat) (cause : WindowCause)
    (failure : Option FailureKind) : CurrencySide s (s.changeCurrency w next attempts cause failure) := by
  have changed : CurrencySide s ((s.setWindow w { s.window w with
      currency := next, attempts := attempts, coldMark := none }).event
      (subjectOf w.val) (.windowState (s.window w).currency next cause attempts failure)) :=
    (setWindow_side s w _).trans (event_side _ _ _).toCurrencySide
  unfold State.changeCurrency; dsimp only; split
  · exact changed.trans (abortServing_side _ w).toCurrencySide
  · exact changed

theorem reduceColdMarks_side (s : State) : CurrencySide s s.reduceColdMarks := by
  unfold State.reduceColdMarks; split
  · exact mapWindows_side s _
  · exact .refl s

/-! ## Catch-up -/

theorem joinResync_side (s : State) (w : WindowNo) : CatchUpSide s (s.joinResync w) := rfl

theorem dropRequest_side (s : State) (c : CatchUp) : CatchUpSide s (s.dropRequest c) := rfl

theorem failControl_side (s : State) (c : CatchUp) (kind : FailureKind) : CatchUpSide s (s.failControl c kind) := by
  unfold State.failControl; split
  · exact dropRequest_side s c
  · split <;> exact rfl

theorem failWindow_side (s : State) (w : WindowNo) (kind : FailureKind) : CatchUpSide s (s.failWindow w kind) := by
  unfold State.failWindow; dsimp only; split
  · exact (changeCurrency_side s _ _ _ _ _).toCatchUpSide.trans (joinResync_side _ _)
  · exact ((changeCurrency_side s _ _ _ _ _).trans (event_side _ _ _).toCurrencySide).toCatchUpSide

theorem failAttempt_side (s : State) (kind : FailureKind) : CatchUpSide s (s.failAttempt kind) := by
  unfold State.failAttempt; split
  · exact .refl s
  · exact (failControl_side s _ kind).trans (failWindow_side _ _ kind)

theorem loss_side (s : State) (w : WindowNo) : CatchUpSide s (s.loss w) := by
  unfold State.loss; split
  · dsimp only; split
    · exact (changeCurrency_side s _ _ _ _ _).toCatchUpSide.trans (joinResync_side _ _)
    · exact (changeCurrency_side s _ _ _ _ _).toCatchUpSide
  · exact failAttempt_side s _
  all_goals exact .refl s

theorem losses_side (s : State) (test : WindowNo → Bool) : CatchUpSide s (s.losses test) :=
  CatchUpSide.foldl loss_side _ _

theorem beginAttempt_side (s : State) (w : WindowNo) : CatchUpSide s (s.beginAttempt w) := by
  unfold State.beginAttempt; dsimp only
  refine CatchUpSide.trans ?_ (changeCurrency_side _ _ _ _ _ _).toCatchUpSide
  exact rfl

theorem tryBegin_side (s : State) : CatchUpSide s s.tryBegin := by
  unfold State.tryBegin; split
  · split
    · exact .refl s
    · exact beginAttempt_side s _
  · exact .refl s

theorem succeed_side (s : State) (c : CatchUp) (donor : StationNo) : CatchUpSide s (s.succeed c donor) := by
  unfold State.succeed
  refine CatchUpSide.trans (t := { s with catchUp := none }) rfl ?_
  exact ((changeCurrency_side _ _ _ _ _ _).trans (event_side _ _ _).toCurrencySide).toCatchUpSide

theorem donorDeparted_side (s : State) (station : StationNo) : CatchUpSide s (s.donorDeparted station) := by
  unfold State.donorDeparted; split
  · split
    · exact failAttempt_side s _
    · exact .refl s
  · exact .refl s

theorem stray_side (s : State) (station : StationNo) (w : WindowNo) (isCbeg : Bool) :
    CatchUpSide s (s.stray station w isCbeg) := by
  unfold State.stray; split
  · split
    · exact (queueControl_side s _).toCatchUpSide
    · exact .refl s
  · split
    · exact .refl s
    · exact rfl

theorem joinerCbeg_side (s : State) (sender : StationNo) (w : WindowNo) : CatchUpSide s (s.joinerCbeg sender w) := by
  unfold State.joinerCbeg; split
  · exact stray_side s _ _ _
  · split
    · exact stray_side s _ _ _
    · split
      · split
        · exact .refl s
        · exact rfl
      · split
        · exact rfl
        · exact stray_side s _ _ _

theorem joinerCend_side (s : State) (sender : StationNo) (w : WindowNo) : CatchUpSide s (s.joinerCend sender w) := by
  unfold State.joinerCend; split
  · split
    · split
      · exact succeed_side s _ _
      · exact failAttempt_side s _
    · exact .refl s
  · exact .refl s

theorem joinerCabt_side (s : State) (sender : StationNo) (w : WindowNo) : CatchUpSide s (s.joinerCabt sender w) := by
  unfold State.joinerCabt; split
  · split
    · exact failAttempt_side s _
    · exact .refl s
  · exact .refl s

theorem creqReported_side (s : State) (w : WindowNo) (attempt : BitVec 3) : CatchUpSide s (s.creqReported w attempt) := by
  unfold State.creqReported; split
  · split
    · exact rfl
    · exact .refl s
  · exact .refl s

theorem reduceTimers_side (s : State) : CatchUpSide s s.reduceTimers := by
  unfold State.reduceTimers; split
  · exact .refl s
  · split
    · split <;> exact rfl
    · exact .refl s

theorem expireWait_side (s : State) : CatchUpSide s s.expireWait := by
  unfold State.expireWait; split
  · exact failAttempt_side s _
  · exact .refl s

theorem expireStall_side (s : State) : CatchUpSide s s.expireStall := by
  unfold State.expireStall; split
  · exact failAttempt_side s _
  · exact .refl s

theorem yieldWindow_side (s : State) (w : WindowNo) : CatchUpSide s (s.yieldWindow w) :=
  (changeCurrency_side s _ _ _ _ _).toCatchUpSide.trans (joinResync_side _ _)

theorem coldYield_side (s : State) (x : StationNo) (misaligned : Bool) : CatchUpSide s (s.coldYield x misaligned) := by
  unfold State.coldYield
  refine CatchUpSide.trans ?_ (mapWindows_side _ _).toCatchUpSide
  exact (event_side s _ _).toCatchUpSide.trans (CatchUpSide.foldl yieldWindow_side _ _)

theorem contest_side (s : State) (p : Profile) (x : StationNo) (cold misaligned : Bool) :
    CatchUpSide s (s.contest p x cold misaligned) := by
  unfold State.contest; split
  · exact coldYield_side s x misaligned
  · exact .refl s

theorem dropForDeclare_side (s : State) (w : WindowNo) : CatchUpSide s (s.dropForDeclare w) := by
  unfold State.dropForDeclare; split
  · exact .refl s
  · split
    · split
      · exact dropRequest_side s _
      · exact rfl
    · exact .refl s

theorem declareWindow_side (s : State) (w : WindowNo) : CatchUpSide s (s.declareWindow w) := by
  unfold State.declareWindow; split
  · exact CatchUpSide.trans (t := { s with resync := s.resync.erase w }) rfl (changeCurrency_side _ _ _ _ _ _).toCatchUpSide
  · exact (changeCurrency_side _ _ _ _ _ _).toCatchUpSide
  · exact (dropForDeclare_side s w).trans (changeCurrency_side _ _ _ _ _ _).toCatchUpSide
  all_goals exact .refl s

theorem resyncWindow_side (s : State) (w : WindowNo) : CatchUpSide s (s.resyncWindow w) := by
  unfold State.resyncWindow; split
  · exact (changeCurrency_side s _ _ _ _ _).toCatchUpSide.trans (joinResync_side _ _)
  · exact (changeCurrency_side s _ _ _ _ _).toCatchUpSide.trans (joinResync_side _ _)
  all_goals exact .refl s

theorem dropForLeave_side (s : State) : CatchUpSide s s.dropForLeave := by
  unfold State.dropForLeave; split
  · exact .refl s
  · dsimp only; split
    · exact (dropRequest_side s _).trans (changeCurrency_side _ _ _ _ _ _).toCatchUpSide
    · refine CatchUpSide.trans ?_ (changeCurrency_side _ _ _ _ _ _).toCatchUpSide
      exact rfl

/-! ## Heard frames, the Roster, the notices -/

theorem deliver_side (s : State) (n : Notice) : ApplySide s (s.deliver n) := by
  unfold State.deliver; split <;> exact rfl

theorem deliverAll_side (s : State) (l : List Notice) : ApplySide s (s.deliverAll l) := ApplySide.foldl deliver_side _ _

theorem updateRoster_side (s : State) (station : StationNo) (f : RosterRecord → RosterRecord) :
    ApplySide s (s.updateRoster station f) := rfl

theorem handDeparture_side (s : State) (station : StationNo) : ApplySide s (s.handDeparture station) :=
  ((donorDeparted_side s station).trans (joinerDeparted_side _ station).toCatchUpSide).toApplySide

theorem depart_side (s : State) (station : StationNo) (next : RosterState) (cause : DepartCause) :
    ApplySide s (s.depart station next cause) := by
  unfold State.depart; split
  · exact .refl s
  · dsimp only; split
    · exact ((updateRoster_side s _ _).trans (event_side _ _ _).toApplySide).trans (handDeparture_side _ _)
    · exact updateRoster_side s _ _

theorem rosterHeard_side (s : State) (h : Header) (cold leaving : Bool) (current : WindowSet) :
    ApplySide s (s.rosterHeard h cold leaving current) := by
  unfold State.rosterHeard; split
  · exact .refl s
  · dsimp only; split
    · exact updateRoster_side s _ _
    · exact (updateRoster_side s _ _).trans (event_side _ _ _).toApplySide

theorem rosterSeen_side (s : State) (h : Header) (leaving : Bool) (current : WindowSet) :
    ApplySide s (s.rosterSeen h leaving current) := rfl

theorem rosterForeign_side (s : State) (h : Header) : ApplySide s (s.rosterForeign h) := depart_side s _ _ _

theorem examineRoster_side (s : State) : ApplySide s s.examineRoster := by
  unfold State.examineRoster; split <;> exact rfl

theorem silentPeer_side (s : State) (station : StationNo) : ApplySide s (s.silentPeer station) := by
  unfold State.silentPeer; split
  · exact .refl s
  · split
    · exact depart_side s _ _ _
    · exact .refl s

theorem departSilent_side (s : State) : ApplySide s s.departSilent :=
  ApplySide.foldl (fun t (r : RosterRecord) => (silentPeer_side t r.station).trans (tryBegin_side _).toApplySide) _ _

theorem finishAccount_side (s : State) (a : Account) : ApplySide s (s.finishAccount a) := by
  unfold State.finishAccount; dsimp only; split
  · exact (deliverAll_side s _).trans (depart_side _ _ _ _)
  · exact deliverAll_side s _

theorem endUnclosed_side (s : State) (a : Account) (ending : AccountEnding) : ApplySide s (s.endUnclosed a ending) := by
  unfold State.endUnclosed
  refine ApplySide.trans (t := { s with account := none }) rfl ?_
  refine ApplySide.trans ?_ (finishAccount_side _ a)
  exact ((event_side _ _ _).toCatchUpSide.trans (losses_side _ _)).toApplySide

theorem endAccount_side (s : State) (ending : AccountEnding) : ApplySide s (s.endAccount ending) := by
  unfold State.endAccount; split
  · exact .refl s
  · exact endUnclosed_side s _ ending

theorem checkClose_side (s : State) (a : Account) (updates frames : Byte) (touched : WindowSet) :
    CatchUpSide s (s.checkClose a updates frames touched) := by
  unfold State.checkClose; split
  · exact (event_side _ _ _).toCatchUpSide.trans (losses_side _ _)
  · split
    · exact losses_side s _
    · split
      · exact (event_side _ _ _).toCatchUpSide
      · exact .refl s

theorem checkUnopened_side (s : State) (h : Header) (updates frames : Byte) (touched : WindowSet) :
    CatchUpSide s (s.checkUnopened h updates frames touched) := by
  unfold State.checkUnopened; split
  · exact losses_side s _
  · split
    · exact (event_side _ _ _).toCatchUpSide
    · exact .refl s

theorem takeClose_side (s : State) (h : Header) (updates frames : Byte) (touched : WindowSet) :
    ApplySide s (s.takeClose h updates frames touched) := by
  unfold State.takeClose; split
  · exact .refl s
  · split
    · exact (checkUnopened_side s h _ _ _).toApplySide
    · refine ApplySide.trans (t := { s with account := none }) rfl ?_
      exact (checkClose_side _ _ _ _ _).toApplySide.trans (finishAccount_side _ _)

theorem takeOpen_side (s : State) (h : Header) (leaving foreign : Bool) : ApplySide s (s.takeOpen h leaving foreign) := by
  unfold State.takeOpen; split
  · dsimp only; split
    · exact endAccount_side s _
    · exact (endAccount_side s _).trans rfl
  · exact .refl s

theorem countFrame_side (s : State) : ApplySide s s.countFrame := rfl

theorem countUpdate_side (s : State) (w : WindowNo) : ApplySide s (s.countUpdate w) := rfl

theorem countCorrupt_side (s : State) : ApplySide s s.countCorrupt := rfl

theorem armAccount_side (s : State) (k : Nat) : ApplySide s (s.armAccount k) := rfl

theorem admitUpdate_side (s : State) (peer : Option StationNo) (w : WindowNo) (first : BitVec 4) (block : BitVec 10)
    (words : List Word) : ApplySide s (s.admitUpdate peer w first block words) := by
  unfold State.admitUpdate; split
  · split <;> exact rfl
  · exact .refl s

theorem takeUpd_side (s : State) (h : Header) (w : WindowNo) (first : BitVec 4) (block : BitVec 10)
    (words : List Word) : ApplySide s (s.takeUpd h w first block words) := by
  unfold State.takeUpd; split
  · exact .refl s
  · split
    · exact (loss_side s w).toApplySide
    · exact ((countFrame_side s).trans (countUpdate_side _ w)).trans (admitUpdate_side _ _ _ _ _ _)

theorem underAccount_side {s : State} (h : Header) {act : State → State} (ha : ∀ s, ApplySide s (act s)) :
    ApplySide s (s.underAccount h act) := by
  unfold State.underAccount; split
  · exact .refl s
  · split
    · exact .refl s
    · exact (countFrame_side s).trans (ha _)

theorem takeNtc_side (s : State) (h : Header) (target : Byte) (level : BitVec 3) (tag : Half) :
    ApplySide s (s.takeNtc h target level tag) := by
  unfold State.takeNtc; split
  · unfold State.takeNotice; split
    · exact .refl s
    · split
      · exact deliver_side s _
      · split <;> exact rfl
  · exact .refl s

theorem graceExpired_side (s : State) (k : Nat) : ApplySide s (s.graceExpired k) := by
  unfold State.graceExpired; split
  · exact .refl s
  · split
    · exact endUnclosed_side s _ _
    · exact .refl s

theorem joinerCblk_side (s : State) (sender : StationNo) (w : WindowNo) (block : Nat) (words : List Word) :
    ApplySide s (s.joinerCblk sender w block words) := by
  unfold State.joinerCblk; split
  · split
    · split
      · exact .refl s
      · exact rfl
    · exact (stray_side s _ _ _).toApplySide
  · exact (stray_side s _ _ _).toApplySide

/-! ## The line and the slot -/

theorem lineActivity_side (s : State) : LineSide s s.lineActivity := by
  unfold State.lineActivity; split <;> exact rfl

theorem corruptReport_side (s : State) : LineSide s s.corruptReport := by
  unfold State.corruptReport; split
  · exact (lineActivity_side s).trans (countCorrupt_side _).toLineSide
  · exact lineActivity_side s

theorem setReceiver_side (s : State) (r : Receiver) : LineSide s (s.setReceiver r) := rfl

theorem endDiscardRun_side (s : State) : LineSide s s.endDiscardRun := by
  unfold State.endDiscardRun; split
  · exact corruptReport_side s
  · exact .refl s

theorem takeFrame_side (s : State) (p : Profile) (f : Filling) (b : FrameBody) : LineSide s (s.takeFrame p f b) := by
  unfold State.takeFrame; dsimp only
  split
  · refine LineSide.trans ((corruptReport_side s).trans (setReceiver_side _ .hunting)) ?_
    exact rfl
  · exact rfl

theorem driveOut_side (s : State) (t : Sending) : LineSide s (s.driveOut t) := by
  unfold State.driveOut; split <;> exact rfl

theorem endFrame_side (s : State) (t : Sending) : LineSide s (s.endFrame t) := by
  refine (driveOut_side s t).trans ?_
  exact rfl

theorem receive_side {s : State} (h : Header) (b : FrameBody) {act : State → State}
    (ha : ∀ s, LineSide s (act s)) : LineSide s (s.receive h b act) := by
  unfold State.receive; split
  · dsimp only; split
    · exact ((endDiscardRun_side s).trans (setReceiver_side _ _)).trans (corruptReport_side _)
    · exact (((endDiscardRun_side s).trans (setReceiver_side _ _)).trans (lineActivity_side _)).trans (ha _)
  · exact .refl s

theorem withClock_side (s : State) (c : Clock) : LineSide s { s with clock := c } := rfl

theorem withResync_side (s : State) (l : List WindowNo) : LineSide s { s with resync := l } := rfl

theorem withOpenFailures_side (s : State) (n : Nat) : LineSide s { s with openFailures := n } := rfl

theorem setFilling_side (s : State) (f : Filling) : LineSide s (s.setFilling f) := rfl

theorem offerOpen_side (s : State) (p : Profile) (f : Filling) : LineSide s (s.offerOpen p f) := by
  unfold State.offerOpen; split
  · exact setFilling_side s f
  · exact (takeFrame_side s p f _).trans (setFilling_side _ _)

theorem openSlot_side (s : State) (p : Profile) (k : Nat) (round : Half) (count : Nat) :
    LineSide s (s.openSlot p k round count) := by
  unfold State.openSlot; dsimp only
  refine LineSide.trans ?_ (offerOpen_side _ p _)
  exact rfl

theorem ownSlotStart_side (s : State) (p : Profile) (k : Nat) : LineSide s (s.ownSlotStart p k) := by
  unfold State.ownSlotStart; split
  · split
    · exact .refl s
    · split
      · exact openSlot_side s p k _ _
      · exact setFilling_side s _
  · split
    · exact .refl s
    · split
      · exact openSlot_side s p k _ _
      · exact setFilling_side s _
  · split
    · exact .refl s
    · split
      · exact openSlot_side s p k _ _
      · split
        · exact .refl s
        · exact setFilling_side s _
  all_goals exact .refl s

theorem slotStarted_side (s : State) (p : Profile) (k : Nat) : LineSide s (s.slotStarted p k) := by
  unfold State.slotStarted; split
  · exact (armAccount_side s k).toLineSide.trans (ownSlotStart_side _ p k)
  · exact (armAccount_side s k).toLineSide

theorem sendFrame_side (s : State) (p : Profile) (f : Filling) (b : FrameBody) : LineSide s (s.sendFrame p f b) :=
  (takeFrame_side s p f b).trans (setFilling_side _ _)

theorem offerClose_side (s : State) (p : Profile) (f : Filling) : LineSide s (s.offerClose p f) :=
  (takeFrame_side s p f _).trans (setFilling_side _ _)

theorem offerCopy_side (s : State) (p : Profile) (f : Filling) : LineSide s (s.offerCopy p f) := by
  unfold State.offerCopy; split
  · split
    · exact offerClose_side s p f
    · dsimp only; split <;> exact rfl
  · exact offerClose_side s p f

theorem offerOutbound_side (s : State) (p : Profile) (f : Filling) : LineSide s (s.offerOutbound p f) := by
  unfold State.offerOutbound; split
  · split
    · refine LineSide.trans ?_ (sendFrame_side _ p _ _)
      exact rfl
    · exact offerCopy_side s p f
  · split
    · exact sendFrame_side s p _ _
    · exact offerCopy_side s p f
  · exact offerCopy_side s p f
  · exact offerCopy_side s p f

theorem offerControl_side (s : State) (p : Profile) (f : Filling) : LineSide s (s.offerControl p f) := by
  unfold State.offerControl; split
  · split
    · refine LineSide.trans ?_ (sendFrame_side _ p _ _)
      exact rfl
    · exact offerOutbound_side s p f
  · exact offerOutbound_side s p f

theorem offerNext_side (s : State) (p : Profile) (f : Filling) : LineSide s (s.offerNext p f) := by
  unfold State.offerNext; split
  · exact offerOpen_side s p f
  · exact offerControl_side s p f
  · exact offerOutbound_side s p f
  · exact offerCopy_side s p f
  · exact offerClose_side s p f
  all_goals exact .refl s

theorem releaseCopyRead_side (s : State) : CopySide s s.releaseCopyRead := rfl

theorem offerBlock_side (s : State) (p : Profile) (f : Filling) (r : ServingRecord) (next : Nat) (words : List Word) :
    LineSide s (s.offerBlock p f r next words) := by
  unfold State.offerBlock; split
  · refine LineSide.trans ?_ (advanceServing_side _ _ _).toLineSide
    refine LineSide.trans ?_ (sendFrame_side _ p _ _)
    exact rfl
  · exact (releaseCopyRead_side s).toLineSide

theorem slotEnded_side (s : State) (p : Profile) (k : Nat) : LineSide s (s.slotEnded p k) := by
  unfold State.slotEnded; split
  · split
    · exact .refl s
    · dsimp only; split
      · refine LineSide.trans ?_ (offerClose_side _ p _)
        exact rfl
      · exact rfl
  · exact .refl s

theorem reach_side (s : State) (n : Nat) : LineSide s (s.reach n) := rfl

theorem passTo_side (s : State) (n : Nat) : LineSide s (s.passTo n) := by
  unfold State.passTo; split <;> exact rfl

/-! ## The station's state -/

theorem enter_side (s : State) (next : StationState) (cause : StationCause) (count : Nat) :
    LineSide s (s.enter next cause count) := rfl

theorem completeFences_side (s : State) : LineSide s s.completeFences := by
  unfold State.completeFences
  refine LineSide.trans ?_ (fenceEvents_side _ _ _).toLineSide
  exact rfl

theorem flushOutbound_side (s : State) : LineSide s s.flushOutbound := by
  unfold State.flushOutbound
  refine LineSide.trans (t := { s with outbound := [] }) rfl ?_
  exact ((fenceEvents_side _ _ _).trans (event_side _ _ _)).toLineSide

theorem abandonSlot_side (s : State) : LineSide s s.abandonSlot := rfl

theorem clearLine_side (s : State) (p : Profile) (next : StationState) : LineSide s (s.clearLine p next) := rfl

theorem comeOff_side (s : State) (p : Profile) (next : StationState) (cause : StationCause) :
    LineSide s (s.comeOff p next cause) := by
  unfold State.comeOff
  refine LineSide.trans ?_ (deliverAll_side _ _).toLineSide
  refine LineSide.trans ?_ (clearLine_side _ p next)
  refine LineSide.trans ?_ (mapWindows_side _ _).toLineSide
  exact (enter_side s next cause _).trans (flushOutbound_side _)

theorem takeSyncLoss_side (s : State) : LineSide s s.takeSyncLoss := by
  unfold State.takeSyncLoss; split
  · exact .refl s
  · split
    · exact comeOff_side s _ _ _
    · exact .refl s

theorem coldStartIntact_side (s : State) : LineSide s s.coldStartIntact := by
  unfold State.coldStartIntact
  refine LineSide.trans ?_ (withOpenFailures_side _ 0)
  refine LineSide.trans ?_ (mapWindows_side _ _).toLineSide
  exact (enter_side s _ _ _).trans (coldEvents_side _).toLineSide

theorem coldStartLost_side (s : State) (p : Profile) : LineSide s (s.coldStartLost p) := rfl

theorem enterColdStart_side (s : State) (p : Profile) : LineSide s (s.enterColdStart p) := by
  unfold State.enterColdStart; dsimp only
  refine LineSide.trans ?_ (slotStarted_side _ p _)
  exact rfl

theorem joinExpired_side (s : State) (p : Profile) : LineSide s (s.joinExpired p) := by
  unfold State.joinExpired; split <;> exact rfl

theorem standoffExpired_side (s : State) (p : Profile) : LineSide s (s.standoffExpired p) := rfl

theorem enterListening_side (s : State) (p : Profile) : LineSide s (s.enterListening p) := rfl

theorem leaveAtOnce_side (s : State) : LineSide s s.leaveAtOnce := rfl

theorem enterLeaving_side (s : State) : LineSide s s.enterLeaving := by
  unfold State.enterLeaving; dsimp only
  refine LineSide.trans ?_ (mapWindows_side _ _).toLineSide
  refine LineSide.trans ?_ (abortAllServing_side _).toLineSide
  refine LineSide.trans ?_ (withResync_side _ [])
  exact (enter_side s _ _ _).trans (dropForLeave_side _).toLineSide

theorem coldLeaveDone_side (s : State) : LineSide s s.coldLeaveDone := rfl

/-! ## The round -/

theorem endRound_side (s : State) : LineSide s s.endRound := rfl

theorem testRound_side (s : State) : LineSide s s.testRound := by
  unfold State.testRound; split <;> exact rfl

theorem runTask_side (s : State) (task : RoundEndTask) : LineSide s (s.runTask task) := by
  cases task
  · exact (testRound_side s).trans (takeSyncLoss_side _)
  · exact ((examineRoster_side s).trans (departSilent_side _)).toLineSide
  · exact (reduceColdMarks_side s).toLineSide
  · exact ((reduceTimers_side s).trans (((expireWait_side _).trans (tryBegin_side _)).trans
      ((expireStall_side _).trans (tryBegin_side _)))).toLineSide
  · exact (lapseOffers_side s).toLineSide

theorem passRoundEnd_side (s : State) (order : List RoundEndTask) : LineSide s (s.passRoundEnd order) :=
  (endRound_side s).trans (LineSide.foldl runTask_side _ _)

theorem raise_side (p : Profile) (order : List RoundEndTask) (s : State) (x : Happening) :
    LineSide s (State.raise p order s x) := by
  cases x
  · exact slotEnded_side s p _
  · exact slotStarted_side s p _
  · exact (graceExpired_side s _).toLineSide.trans (tryBegin_side _).toLineSide
  · exact passRoundEnd_side s order

theorem moveForward_side (p : Profile) (order : List RoundEndTask) : ∀ (n : Nat) (s : State),
    LineSide s (State.moveForward p order n s)
  | 0, s => .refl s
  | n + 1, s => by
    unfold State.moveForward; split
    · exact .refl s
    · refine LineSide.trans ?_ (moveForward_side p order n _)
      exact (reach_side s _).trans (LineSide.foldl (raise_side p order) _ _)

theorem markOnTime_side (s : State) : LineSide s s.markOnTime := rfl

theorem markMisaligned_side (s : State) : LineSide s s.markMisaligned := rfl

theorem align_side (s : State) (p : Profile) (k instant : Nat) (round : Half) (order : List RoundEndTask) :
    LineSide s (s.align p k instant round order) := by
  have marked : LineSide s (s.passTo instant).markOnTime := (passTo_side s instant).trans (markOnTime_side _)
  unfold State.align; dsimp only
  refine LineSide.trans ?_ (markOnTime_side _)
  split
  · refine LineSide.trans ?_ (withClock_side _ _)
    exact marked.trans (moveForward_side p order _ _)
  · exact marked.trans (withClock_side _ _)

theorem joinLine_side (s : State) (p : Profile) (h : Header) : LineSide s (s.joinLine p h) := rfl

theorem openForeign_side (s : State) (h : Header) (leaving : Bool) : LineSide s (s.openForeign h leaving) := by
  unfold State.openForeign; dsimp only
  refine LineSide.trans ?_ (takeOpen_side _ h leaving true).toLineSide
  refine LineSide.trans ?_ (rosterForeign_side _ h).toLineSide
  exact rfl

theorem openListening_side (s : State) (p : Profile) (h : Header) (digest : Half) (cold leaving : Bool)
    (current : WindowSet) : LineSide s (s.openListening p h digest cold leaving current) := by
  unfold State.openListening; split
  · exact openForeign_side s h leaving
  · split
    · exact (rosterSeen_side s h leaving current).toLineSide
    · exact (joinLine_side s p h).trans
        ((rosterHeard_side _ h cold leaving current).trans (takeOpen_side _ h leaving false)).toLineSide

theorem openRunning_side (s : State) (p : Profile) (h : Header) (digest : Half) (cold leaving : Bool)
    (current : WindowSet) (instant : Nat) (order : List RoundEndTask) :
    LineSide s (s.openRunning p h digest cold leaving current instant order) := by
  unfold State.openRunning; split
  · exact (passTo_side s instant).trans (openForeign_side _ h leaving)
  · split
    · refine LineSide.trans ?_ (takeOpen_side _ h leaving false).toLineSide
      refine LineSide.trans ?_ (rosterHeard_side _ h cold leaving current).toLineSide
      exact (align_side s p _ _ _ _).trans (contest_side _ p _ _ _).toLineSide
    · refine LineSide.trans ?_ (takeOpen_side _ h leaving false).toLineSide
      refine LineSide.trans ?_ (rosterSeen_side _ h leaving current).toLineSide
      exact ((passTo_side s instant).trans (markMisaligned_side _)).trans (contest_side _ p _ _ _).toLineSide

theorem openReported_side (s : State) (h : Header) (digest : Half) (cold leaving : Bool) (current : WindowSet)
    (instant : Nat) (order : List RoundEndTask) :
    LineSide s (s.openReported h digest cold leaving current instant order) := by
  unfold State.openReported; split
  · exact .refl s
  · split
    · exact openListening_side s _ h digest cold leaving current
    · exact openRunning_side s _ h digest cold leaving current _ order
    · exact openRunning_side s _ h digest cold leaving current _ order
    · exact openRunning_side s _ h digest cold leaving current _ order
    all_goals exact .refl s

/-! ## Readbacks -/

theorem goOn_side (s : State) : LineSide s s.goOn := rfl

theorem closeNow_side (s : State) : LineSide s s.closeNow := by
  unfold State.closeNow; split
  · exact offerClose_side s _ _
  · exact .refl s

theorem frameLost_side (s : State) (h : Header) (lost : LostFrame) : EventSide s (s.frameLost h lost) := rfl

theorem coldOpenReported_side (s : State) (p : Profile) (intact : Bool) : LineSide s (s.coldOpenReported p intact) := by
  unfold State.coldOpenReported; split
  · exact closeNow_side s
  · split
    · exact (coldStartIntact_side s).trans (goOn_side _)
    · exact coldStartLost_side s p

theorem ownOpenReported_side (s : State) (p : Profile) (h : Header) (intact : Bool) :
    LineSide s (s.ownOpenReported p h intact) := by
  unfold State.ownOpenReported; split
  · refine LineSide.trans ?_ (tryBegin_side _).toLineSide
    refine LineSide.trans ?_ (goOn_side _)
    refine LineSide.trans ?_ (endAccount_side _ _).toLineSide
    exact rfl
  · split
    · exact rfl
    · exact comeOff_side s p _ _

theorem openReadBack_side (s : State) (p : Profile) (h : Header) (intact : Bool) :
    LineSide s (s.openReadBack p h intact) := by
  unfold State.openReadBack; split
  · exact coldOpenReported_side s p intact
  · exact ownOpenReported_side s p h intact
  · exact ownOpenReported_side s p h intact
  all_goals exact .refl s

theorem popOutbound_side (s : State) : LineSide s s.popOutbound := rfl

theorem ownUpdReported_side (s : State) (h : Header) (w : WindowNo) (first : BitVec 4) (block : BitVec 10)
    (words : List Word) (intact : Bool) : ApplySide s (s.ownUpdReported h w first block words intact) := by
  unfold State.ownUpdReported; split
  · exact admitUpdate_side s _ _ _ _ _
  · exact ((frameLost_side s h _).toCatchUpSide.trans (loss_side _ w)).toApplySide

theorem endSlot_side (s : State) : LineSide s s.endSlot := by
  unfold State.endSlot; split
  · dsimp only; split
    · exact rfl
    · split
      · refine LineSide.trans ?_ (openSlot_side _ _ _ _ _)
        exact rfl
      · exact rfl
  · exact .refl s

theorem closeReadBack_side (s : State) (p : Profile) : LineSide s (s.closeReadBack p) := by
  unfold State.closeReadBack; split
  · exact .refl s
  · split
    · refine LineSide.trans ?_ (comeOff_side _ p _ _)
      exact rfl
    · split
      · refine LineSide.trans ?_ (coldLeaveDone_side _)
        exact rfl
      · exact endSlot_side s

/-! ## The rows of the line -/

/-- The commands by which the line, the round and the timers act on the station: all but the host's and the store's. -/
def ofLine : Instr → Bool
  | .powerOnReset | .initPassStep | .hostDataAccess _ _ _ | .hostStoreClaimGranted | .controlRegionWrite _ _ _
  | .badCommandCode _ _ | .configure _ | .configureComplete | .join _ | .leave _ | .resetStation _ | .declare _ _
  | .resync _ _ | .watch _ _ _ | .clearWritten _ _ | .sendNotice _ _ _ _ | .takeNotice _ | .setThreshold _ _
  | .fence _ _ | .takeEvent _ | .windowStatus _ _ | .rosterStatus _ _ | .stationStatus _ | .updateApplied
  | .copiedBlockWritten | .copyReadGranted => false
  | .openReceived _ _ _ _ _ _ _ | .closeReceived _ _ _ _ | .updReceived _ _ _ _ _ | .ntcReceived _ _ _ _
  | .creqReceived _ _ _ _ _ | .cbegReceived _ _ _ _ _ | .cblkReceived _ _ _ _ _ | .cendReceived _ _ _ _
  | .ccanReceived _ _ _ | .cabtReceived _ _ _ | .corruptReception | .openReadback _ | .updReadback _ | .ntcReadback _
  | .creqReadback _ | .cbegReadback _ | .closeReadback _ | .otherFrameReadback _ | .slotStart _ | .slotFrameOffer
  | .openGraceExpiry _ | .slotEnd _ | .roundEnd | .misalignedRoundTest | .syncLoss
  | .rosterSilenceCheck | .peerSilent _ | .coldMarkReduction | .waitTimerExpiry | .stallTimerExpiry | .offerLapse
  | .quietTimerExpiry | .joinTimerExpiry | .standoffTimerExpiry | .leadFound | .discardRunStart => true

theorem applying_side {s : State} {act : State → State} (ha : ∀ s, LineSide s (act s)) : LineSide s (s.applying act) := by
  unfold State.applying; split
  · exact ha s
  · exact .refl s

theorem receive_applying_side {s : State} (h : Header) (b : FrameBody) {act : State → State}
    (ha : ∀ s, LineSide s (act s)) : LineSide s (s.receive h b fun s => s.applying act) :=
  receive_side h b fun _ => applying_side ha

/-- A command of the line always answers a next state, and leaves the host's side of the station alone. -/
theorem exec_ofLine {i : Instr} (h : ofLine i = true) (s : State) : ∃ t, exec i s = .next t ∧ LineSide s t := by
  cases i <;> first | (cases h; done) | skip
  case openReceived hd digest cold leaving current instant order =>
    exact ⟨_, rfl, receive_side _ _ fun s => (openReported_side s _ _ _ _ _ _ _).trans (tryBegin_side _).toLineSide⟩
  case closeReceived hd updates frames touched =>
    exact ⟨_, rfl, receive_applying_side _ _ fun s =>
      (takeClose_side s _ _ _ _).toLineSide.trans (tryBegin_side _).toLineSide⟩
  case updReceived hd w first block words =>
    exact ⟨_, rfl, receive_applying_side _ _ fun s =>
      (takeUpd_side s _ _ _ _ _).toLineSide.trans (tryBegin_side _).toLineSide⟩
  case ntcReceived hd target level tag =>
    exact ⟨_, rfl, receive_applying_side _ _ fun s => (underAccount_side _ fun s => takeNtc_side s _ _ _ _).toLineSide⟩
  case creqReceived hd w attempt first last =>
    exact ⟨_, rfl, receive_applying_side _ _ fun s =>
      (underAccount_side _ fun s => (takeCreq_side s _ _ _ _).toApplySide).toLineSide⟩
  case cbegReceived hd joiner w first last =>
    exact ⟨_, rfl, receive_applying_side _ _ fun s => (underAccount_side _ fun s => by
      split
      · exact (joinerCbeg_side s _ _).toApplySide
      · exact (withdrawOffer_side s _ _).toApplySide).toLineSide⟩
  case cblkReceived hd joiner w block words =>
    exact ⟨_, rfl, receive_applying_side _ _ fun s => (underAccount_side _ fun s => by
      split
      · exact joinerCblk_side s _ _ _ _
      · exact .refl s).toLineSide⟩
  case cendReceived hd joiner w count =>
    exact ⟨_, rfl, receive_applying_side _ _ fun s => (underAccount_side _ fun s => by
      split
      · exact ((joinerCend_side s _ _).trans (tryBegin_side _)).toApplySide
      · exact .refl s).toLineSide⟩
  case ccanReceived hd donor w =>
    exact ⟨_, rfl, receive_applying_side _ _ fun s => (underAccount_side _ fun s => by
      split
      · exact (clearOffer_side s _ _).toApplySide
      · exact .refl s).toLineSide⟩
  case cabtReceived hd joiner w =>
    exact ⟨_, rfl, receive_applying_side _ _ fun s => (underAccount_side _ fun s => by
      split
      · exact ((joinerCabt_side s _ _).trans (tryBegin_side _)).toApplySide
      · exact .refl s).toLineSide⟩
  case corruptReception =>
    refine ⟨_, rfl, ?_⟩; split
    · exact (corruptReport_side s).trans (setReceiver_side _ _)
    · exact .refl s
  case openReadback intact =>
    simp only [exec, execOpenReadback]; split
    · split
      · exact ⟨_, rfl, (endFrame_side s _).trans (openReadBack_side _ _ _ _)⟩
      · exact ⟨_, rfl, endFrame_side s _⟩
    · exact ⟨_, rfl, .refl s⟩
  case updReadback intact =>
    simp only [exec, execUpdReadback]; split
    · split
      · exact ⟨_, rfl, (((endFrame_side s _).trans (popOutbound_side _)).trans
          (ownUpdReported_side _ _ _ _ _ _ _).toLineSide).trans
          ((completeFences_side _).trans (tryBegin_side _).toLineSide)⟩
      · exact ⟨_, rfl, endFrame_side s _⟩
    · exact ⟨_, rfl, .refl s⟩
  case ntcReadback intact =>
    simp only [exec, execNtcReadback]; split
    · split
      · refine ⟨_, rfl, LineSide.trans ?_ (completeFences_side _)⟩
        split
        · exact (endFrame_side s _).trans (popOutbound_side _)
        · exact ((endFrame_side s _).trans (popOutbound_side _)).trans (frameLost_side _ _ _).toLineSide
      · exact ⟨_, rfl, endFrame_side s _⟩
    · exact ⟨_, rfl, .refl s⟩
  case creqReadback intact =>
    simp only [exec, execCreqReadback]; split
    · exact ⟨_, rfl, (endFrame_side s _).trans (creqReported_side _ _ _).toLineSide⟩
    · exact ⟨_, rfl, .refl s⟩
  case cbegReadback intact =>
    simp only [exec, execCbegReadback]; split
    · exact ⟨_, rfl, (endFrame_side s _).trans (cbegReported_side _ _ _).toLineSide⟩
    · exact ⟨_, rfl, .refl s⟩
  case closeReadback intact =>
    simp only [exec, execCloseReadback]; split
    · split
      · exact ⟨_, rfl, (endFrame_side s _).trans (closeReadBack_side _ _)⟩
      · exact ⟨_, rfl, endFrame_side s _⟩
    · exact ⟨_, rfl, .refl s⟩
  case otherFrameReadback intact =>
    simp only [exec, execOtherFrameReadback]; split
    · exact ⟨_, rfl, .refl s⟩
    · split
      · exact ⟨_, rfl, endFrame_side s _⟩
      · exact ⟨_, rfl, .refl s⟩
  case slotStart k =>
    simp only [exec, execSlotStart]; split
    · exact ⟨_, rfl, .refl s⟩
    · split
      · exact ⟨_, rfl, (passTo_side s _).trans (slotStarted_side _ _ _)⟩
      · exact ⟨_, rfl, .refl s⟩
  case slotFrameOffer =>
    simp only [exec, execSlotFrameOffer]; split
    · split
      · exact ⟨_, rfl, .refl s⟩
      · exact ⟨_, rfl, offerNext_side s _ _⟩
    · exact ⟨_, rfl, .refl s⟩
  case openGraceExpiry k =>
    simp only [exec, execOpenGraceExpiry]; split
    · exact ⟨_, rfl, .refl s⟩
    · split
      · exact ⟨_, rfl, ((passTo_side s _).trans (graceExpired_side _ _).toLineSide).trans (tryBegin_side _).toLineSide⟩
      · exact ⟨_, rfl, .refl s⟩
  case slotEnd k =>
    simp only [exec, execSlotEnd]; split
    · exact ⟨_, rfl, .refl s⟩
    · split
      · exact ⟨_, rfl, (passTo_side s _).trans (slotEnded_side _ _ _)⟩
      · exact ⟨_, rfl, .refl s⟩
  case roundEnd =>
    simp only [exec, execRoundEnd]; split
    · exact ⟨_, rfl, .refl s⟩
    · refine ⟨_, rfl, ?_⟩; split
      · exact ((passTo_side s _).trans (endRound_side _)).trans (reduceTimers_side _).toLineSide
      · exact .refl s
  case misalignedRoundTest => exact ⟨_, rfl, testRound_side s⟩
  case syncLoss => exact ⟨_, rfl, takeSyncLoss_side s⟩
  case rosterSilenceCheck => exact ⟨_, rfl, (examineRoster_side s).toLineSide⟩
  case peerSilent station =>
    exact ⟨_, rfl, (silentPeer_side s station).toLineSide.trans (tryBegin_side _).toLineSide⟩
  case coldMarkReduction => exact ⟨_, rfl, (reduceColdMarks_side s).toLineSide⟩
  case waitTimerExpiry => exact ⟨_, rfl, ((expireWait_side s).trans (tryBegin_side _)).toLineSide⟩
  case stallTimerExpiry => exact ⟨_, rfl, ((expireStall_side s).trans (tryBegin_side _)).toLineSide⟩
  case offerLapse => exact ⟨_, rfl, (lapseOffers_side s).toLineSide⟩
  case quietTimerExpiry =>
    simp only [exec, execQuietTimerExpiry]; split
    · exact ⟨_, rfl, .refl s⟩
    · split
      · exact ⟨_, rfl, enterColdStart_side s _⟩
      · exact ⟨_, rfl, .refl s⟩
  case joinTimerExpiry =>
    simp only [exec, execJoinTimerExpiry]; split
    · exact ⟨_, rfl, .refl s⟩
    · split
      · exact ⟨_, rfl, joinExpired_side s _⟩
      · exact ⟨_, rfl, .refl s⟩
  case standoffTimerExpiry =>
    simp only [exec, execStandoffTimerExpiry]; split
    · exact ⟨_, rfl, .refl s⟩
    · split
      · exact ⟨_, rfl, standoffExpired_side s _⟩
      · exact ⟨_, rfl, .refl s⟩
  case leadFound =>
    refine ⟨_, rfl, ?_⟩; split
    · exact (endDiscardRun_side s).trans (setReceiver_side _ _)
    · exact .refl s
  case discardRunStart =>
    refine ⟨_, rfl, ?_⟩; split
    · exact setReceiver_side s _
    · exact .refl s

end Sys2Proof.Laws
end

