-- ==== Sys2Proof/Laws/CatchUp.lean ====
section
/-! SUPPORT. Laws/CatchUp.lean: what the shared operations of the catch-up units do, once for each: the ending of serving
records (RecordsEnded), a change of currency, the test of R129 (AttemptTested), a loss, a failed attempt. -/

namespace Sys2Proof.Laws

open Sys2Proof Sys2Proof.Machine

variable {s : State}

/-! ## The ending of serving records -/

/-- One record ends, with a CABT first where the joiner is told. -/
def endRecord (told : Bool) (s : State) (r : ServingRecord) : State :=
  (if told then s.queueControl (.cabt r.joiner r.window) else s).dropServing r

theorem endRecord_true : endRecord true = State.abortRecord := rfl

theorem endRecord_false : endRecord false = State.dropServing := rfl

theorem endRecord_serving (told : Bool) (s : State) (r : ServingRecord) :
    (endRecord told s r).serving = s.serving.filter fun q => q.pair != r.pair := by
  cases told <;> rfl

theorem endRecord_turn (told : Bool) (s : State) (r : ServingRecord) :
    (endRecord told s r).turn = if s.turn = some r.pair then recordBefore r.pair none s.serving else s.turn := by
  cases told <;> rfl

theorem endRecord_copyRead (told : Bool) (s : State) (r : ServingRecord) :
    (endRecord told s r).copyRead = if s.copyRead = some r.pair then none else s.copyRead := by
  cases told <;> rfl

theorem endRecord_filler (told : Bool) (s : State) (r : ServingRecord) :
    (endRecord told s r).filler = if s.copyRead = some r.pair then s.filler.map Filling.stopCopy else s.filler := by
  cases told <;> rfl

theorem endRecord_control (told : Bool) (s : State) (r : ServingRecord) :
    (endRecord told s r).control =
      (if told then queued s.control (.cabt r.joiner r.window) else s.control).erase r.cbeg := by
  cases told <;> rfl

/-- With no other record of its pair before it, the record before a record is the last of those before it. -/
theorem recordBefore_append (pair : StationNo × WindowNo) (r : ServingRecord) (after : List ServingRecord)
    (hr : r.pair = pair) : ∀ (before : List ServingRecord) (start : Option (StationNo × WindowNo)),
    (∀ q ∈ before, q.pair ≠ pair) →
    recordBefore pair start (before ++ r :: after) = (before.getLast?.map ServingRecord.pair).or start
  | [], start, _ => by simp [recordBefore, hr]
  | q :: before, start, h => by
    have hq : q.pair ≠ pair := h q (by simp)
    simp only [List.cons_append, recordBefore, if_neg hq]
    rw [recordBefore_append pair r after hr before _ fun x hx => h x (by simp [hx])]
    cases before with
    | nil => simp
    | cons x xs => simp [List.getLast?_cons]

/-- What ending the records of the second part of the serving list leaves, one after the other. -/
theorem endRecords_part (ended : ServingRecord → Bool) (told : Bool) : ∀ (post kept : List ServingRecord) (u : State),
    u.serving = kept ++ post → (u.serving.map ServingRecord.pair).Nodup →
    let v := (post.filter ended).foldl (endRecord told) u
    v.serving = kept ++ post.filter (fun r => !ended r) ∧
    v.control = afterEndings told u.control (post.filter ended) ∧
    ((∀ r ∈ post, u.turn = some r.pair → ended r = false) → v.turn = u.turn) ∧
    (∀ before r after, post = before ++ r :: after → u.turn = some r.pair → ended r = true →
      v.turn = (kept ++ before.filter fun q => !ended q).getLast?.map ServingRecord.pair) ∧
    ((∀ r ∈ post, u.copyRead = some r.pair → ended r = false) → v.copyRead = u.copyRead ∧ v.filler = u.filler) ∧
    ((∃ r ∈ post, u.copyRead = some r.pair ∧ ended r = true) →
      v.copyRead = none ∧ v.filler = u.filler.map Filling.stopCopy) := by
  intro post
  induction post with
  | nil =>
    intro kept u hs _
    refine ⟨by simpa using hs, rfl, fun _ => rfl, ?_, fun _ => ⟨rfl, rfl⟩, ?_⟩
    · intro before r after h; simp at h
    · rintro ⟨r, h, _⟩; simp at h
  | cons r post ih =>
    intro kept u hs hn
    have hpairs : ∀ q ∈ kept, q.pair ≠ r.pair := by
      rw [hs] at hn; simp only [List.map_append, List.map_cons, List.nodup_append] at hn
      exact fun q hq => hn.2.2 _ (List.mem_map_of_mem hq) _ (by simp)
    have hpost : ∀ q ∈ post, q.pair ≠ r.pair := by
      rw [hs] at hn; simp only [List.map_append, List.map_cons, List.nodup_append, List.nodup_cons] at hn
      exact fun q hq h => hn.2.1.1 (h ▸ List.mem_map_of_mem hq)
    cases he : ended r with
    | false =>
      have := ih (kept ++ [r]) u (by simp [hs]) hn
      simp only [List.filter_cons, he] at this ⊢
      obtain ⟨h1, h2, h3, h4, h5, h6⟩ := this
      refine ⟨by simpa using h1, by simpa using h2, ?_, ?_, ?_, ?_⟩
      · intro h; exact h3 fun q hq => h q (by simp [hq])
      · intro before q after hb ht hq
        cases before with
        | nil => simp at hb; rw [hb.1] at he; simp [he] at hq
        | cons b before =>
          simp only [List.cons_append, List.cons.injEq] at hb
          have := h4 before q after hb.2 ht hq
          simpa [← hb.1, he] using this
      · intro h; exact h5 fun q hq => h q (by simp [hq])
      · rintro ⟨q, hq, hc, hqe⟩
        refine h6 ⟨q, ?_, hc, hqe⟩
        simp only [List.mem_cons] at hq
        rcases hq with rfl | hq
        · simp [he] at hqe
        · exact hq
    | true =>
      let u1 := endRecord told u r
      have hs1 : u1.serving = kept ++ post := by
        show (endRecord told u r).serving = _
        rw [endRecord_serving, hs, List.filter_append, List.filter_cons]
        simp only [bne_self_eq_false, Bool.false_eq_true, if_false]
        rw [List.filter_eq_self.2 (by simpa using hpairs), List.filter_eq_self.2 (by simpa using hpost)]
      have hn1 : (u1.serving.map ServingRecord.pair).Nodup := by
        rw [hs1]; rw [hs] at hn; simp only [List.map_append, List.map_cons] at hn ⊢
        exact hn.sublist (by simp)
      have ht1 : u1.turn = if u.turn = some r.pair then kept.getLast?.map ServingRecord.pair else u.turn := by
        show (endRecord told u r).turn = _
        rw [endRecord_turn, hs, recordBefore_append _ r post rfl kept none hpairs]; simp
      have hc1 : u1.copyRead = if u.copyRead = some r.pair then none else u.copyRead := endRecord_copyRead told u r
      have hf1 : u1.filler = if u.copyRead = some r.pair then u.filler.map Filling.stopCopy else u.filler :=
        endRecord_filler told u r
      obtain ⟨h1, h2, h3, h4, h5, h6⟩ := ih kept u1 hs1 hn1
      simp only [List.filter_cons, he, if_true, List.foldl_cons]
      refine ⟨by simpa using h1, ?_, ?_, ?_, ?_, ?_⟩
      · rw [h2, show u1.control = _ from endRecord_control told u r]; rfl
      · intro h
        have hne : u.turn ≠ some r.pair := fun h' => by have := h r (by simp) h'; simp [he] at this
        rw [if_neg hne] at ht1
        rw [h3 (fun q hq hq' => h q (by simp [hq]) (by rw [← ht1]; exact hq')), ht1]
      · intro before q after hb ht hq
        cases before with
        | nil =>
          simp only [List.nil_append, List.cons.injEq] at hb
          obtain ⟨rfl, rfl⟩ := hb
          rw [if_pos ht] at ht1
          simp only [List.filter_nil, List.append_nil]
          rw [← ht1]
          refine h3 fun x hx hx' => ?_
          rw [ht1] at hx'
          obtain ⟨y, hy, hy'⟩ := Option.map_eq_some_iff.1 hx'
          have hyk : y ∈ kept := List.mem_of_getLast? hy
          rw [hs] at hn; simp only [List.map_append, List.map_cons, List.nodup_append] at hn
          exact absurd hy' (hn.2.2 _ (List.mem_map_of_mem hyk) _ (by simp; exact Or.inr ⟨x, hx, rfl⟩))
        | cons b before =>
          simp only [List.cons_append, List.cons.injEq] at hb
          obtain ⟨rfl, hb⟩ := hb
          have hne : u.turn ≠ some r.pair := by
            rw [ht]; intro h; simp only [Option.some.injEq] at h
            exact hpost q (by simp [hb]) h
          rw [if_neg hne] at ht1
          have := h4 before q after hb (by rw [ht1]; exact ht) hq
          simpa [List.filter_cons, he] using this
      · intro h
        have hne : u.copyRead ≠ some r.pair := fun h' => by have := h r (by simp) h'; simp [he] at this
        rw [if_neg hne] at hc1 hf1
        rw [← hc1, ← hf1]
        exact h5 fun q hq hq' => h q (by simp [hq]) (by rw [← hc1]; exact hq')
      · rintro ⟨q, hq, hc, hqe⟩
        by_cases hr : u.copyRead = some r.pair
        · rw [if_pos hr] at hc1 hf1
          rw [← hc1, ← hf1]
          exact h5 fun x _ hx => by rw [hc1] at hx; simp at hx
        · rw [if_neg hr] at hc1 hf1
          rw [← hf1]
          refine h6 ⟨q, ?_, by rw [hc1]; exact hc, hqe⟩
          simp only [List.mem_cons] at hq
          rcases hq with rfl | hq
          · exact absurd hc hr
          · exact hq

/-- Ending the records that pass a test, in list order, leaves what RecordsEnded says. -/
theorem recordsEnded (ended : ServingRecord → Bool) (told : Bool) (hn : (s.serving.map ServingRecord.pair).Nodup) :
    RecordsEnded ended told s ((s.serving.filter ended).foldl (endRecord told) s) := by
  obtain ⟨h1, h2, h3, h4, h5, h6⟩ := endRecords_part ended told s.serving [] s rfl hn
  exact ⟨⟨by simpa using h1, h3, by simpa using h4, h5, h6⟩, h2⟩

theorem abortServing_ended (w : WindowNo) (hn : (s.serving.map ServingRecord.pair).Nodup) :
    RecordsEnded (fun r => decide (r.window = w)) true s (s.abortServing w) := recordsEnded _ true hn

theorem joinerDeparted_ended (station : StationNo) (hn : (s.serving.map ServingRecord.pair).Nodup) :
    RecordsEnded (fun r => decide (r.joiner = station)) false s (s.joinerDeparted station) := recordsEnded _ false hn

theorem lapseOffers_ended (ha : s.station = .active) (hn : (s.serving.map ServingRecord.pair).Nodup) :
    RecordsEnded (fun r => r.lapsed s.clock.endedRound) false s s.lapseOffers := by
  unfold State.lapseOffers; rw [if_pos ha]; exact recordsEnded _ false hn

/-- Dropping every record of a list, in list order and with no CABT. -/
theorem dropServing_all : ∀ (l : List ServingRecord) (s : State),
    let v := l.foldl State.dropServing s
    v.serving = s.serving.filter (fun r => decide (∀ q ∈ l, r.pair ≠ q.pair)) ∧
    v.control = l.foldl (fun q r => q.erase r.cbeg) s.control ∧
    ((∀ r ∈ l, s.copyRead ≠ some r.pair) → v.copyRead = s.copyRead ∧ v.filler = s.filler) ∧
    ((∃ r ∈ l, s.copyRead = some r.pair) → v.copyRead = none ∧ v.filler = s.filler.map Filling.stopCopy)
  | [], s => ⟨by simp, rfl, fun _ => ⟨rfl, rfl⟩, by rintro ⟨r, h, _⟩; simp at h⟩
  | r :: l, s => by
    obtain ⟨h1, h2, h3, h4⟩ := dropServing_all l (s.dropServing r)
    have hs := endRecord_serving false s r
    have hc := endRecord_copyRead false s r
    have hf := endRecord_filler false s r
    rw [endRecord_false] at hs hc hf
    simp only [List.foldl_cons]
    refine ⟨?_, ?_, ?_, ?_⟩
    · rw [h1, hs, List.filter_filter]; congr 1; funext q
      by_cases h : q.pair = r.pair <;> simp [h]
    · rw [h2]; rfl
    · intro h
      have hr := h r (by simp)
      rw [if_neg hr] at hc hf
      rw [← hc, ← hf]
      exact h3 fun q hq => by rw [hc]; exact h q (by simp [hq])
    · rintro ⟨q, hq, hq'⟩
      by_cases hr : s.copyRead = some r.pair
      · rw [if_pos hr] at hc hf
        rw [← hc, ← hf]
        exact h3 fun x _ => by rw [hc]; simp
      · rw [if_neg hr] at hc hf
        rw [← hf]
        refine h4 ⟨q, ?_, by rw [hc]; exact hq'⟩
        rcases List.mem_cons.1 hq with rfl | hq
        · exact absurd hq' hr
        · exact hq

/-- The CABTs to the joiners of a list of records are queued, and nothing else changes. -/
theorem tellJoiner_all : ∀ (l : List ServingRecord) (s : State), l.foldl State.tellJoiner s =
    { s with control := l.foldl (fun q r => queued q (.cabt r.joiner r.window)) s.control }
  | [], _ => rfl
  | r :: l, s => tellJoiner_all l (s.tellJoiner r)

/-- LEAVE ends every record: nothing is left of the list, the CABTs stand before the CBEGs are unqueued, and a copy read
that waits is withdrawn. -/
theorem abortAllServing_ended (s : State) :
    s.abortAllServing.serving = [] ∧ s.abortAllServing.turn = none ∧
    s.abortAllServing.control = afterLeave s.control s.serving ∧
    ((∀ r ∈ s.serving, s.copyRead ≠ some r.pair) →
      s.abortAllServing.copyRead = s.copyRead ∧ s.abortAllServing.filler = s.filler) ∧
    ((∃ r ∈ s.serving, s.copyRead = some r.pair) →
      s.abortAllServing.copyRead = none ∧ s.abortAllServing.filler = s.filler.map Filling.stopCopy) := by
  have h := dropServing_all s.serving (s.serving.foldl State.tellJoiner s)
  rw [tellJoiner_all] at h
  obtain ⟨h1, h2, h3, h4⟩ := h
  unfold State.abortAllServing; rw [tellJoiner_all]
  refine ⟨h1.trans ?_, rfl, h2, h3, h4⟩
  refine List.filter_eq_nil_iff.2 fun r hr => ?_
  simp only [decide_eq_true_eq]
  exact fun h => h r hr rfl

/-! ## A change of currency -/

/-- The record and the event of a change of currency, without what the Copy Server makes of it. -/
def changed (s : State) (w : WindowNo) (next : Currency) (attempts : Nat) (cause : WindowCause)
    (failure : Option FailureKind) : State :=
  (s.setWindow w { s.window w with currency := next, attempts := attempts, coldMark := none }).event
    (subjectOf w.val) (.windowState (s.window w).currency next cause attempts failure)

theorem changeCurrency_plain (w : WindowNo) (next : Currency) (attempts : Nat) (cause : WindowCause)
    (failure : Option FailureKind)
    (h : (s.window w).currency ≠ .current ∨ next = .current ∨ s.station ≠ .active) :
    s.changeCurrency w next attempts cause failure = changed s w next attempts cause failure := by
  unfold State.changeCurrency; dsimp only; rw [if_neg]
  · rfl
  · rintro ⟨h1, h2, h3⟩; rcases h with h | h | h <;> contradiction

theorem changeCurrency_leaving (w : WindowNo) (next : Currency) (attempts : Nat) (cause : WindowCause)
    (failure : Option FailureKind)
    (h1 : (s.window w).currency = .current) (h2 : next ≠ .current) (h3 : s.station = .active) :
    s.changeCurrency w next attempts cause failure = (changed s w next attempts cause failure).abortServing w := by
  unfold State.changeCurrency; dsimp only; rw [if_pos ⟨h1, h2, h3⟩]; rfl

/-- Whatever the Copy Server makes of it, the window records are those of the change. -/
theorem changeCurrency_windows (w : WindowNo) (next : Currency) (attempts : Nat) (cause : WindowCause)
    (failure : Option FailureKind) : (s.changeCurrency w next attempts cause failure).windows =
      s.windows.set w { s.window w with currency := next, attempts := attempts, coldMark := none } := by
  unfold State.changeCurrency; dsimp only; split
  · rw [abortServing_side]; rfl
  · rfl

/-! ## The test of R129 -/

/-- The test waits exactly where a departure of the Roster's examination is still to come. -/
theorem departureDue_iff : s.departureDue = false ↔
    ∀ r ∈ s.roster, ¬ (r.state = .present ∧ r.silent = s.silenceLimit) := by
  unfold State.departureDue RosterRecord.isSilent
  rw [List.any_eq_false]
  simp only [Bool.and_eq_true, decide_eq_true_eq]

theorem tryBegin_none (h : s.nextTried = none) : s.tryBegin = s := by
  unfold State.tryBegin; simp only [State.nextTried, ← departureDue_iff] at h
  split
  · rename_i hc; rw [if_pos hc] at h; rw [h]
  · rfl

theorem tryBegin_some {w : WindowNo} (h : s.nextTried = some w) : s.tryBegin = s.beginAttempt w := by
  unfold State.tryBegin; simp only [State.nextTried, ← departureDue_iff] at h
  split
  · rename_i hc; rw [if_pos hc] at h; rw [h]
  · rename_i hc; rw [if_neg hc] at h; cases h

/-- The test of R129, where the window it finds is not CURRENT, as no listed window is. -/
theorem tryBegin_tested (h : ∀ w, s.nextTried = some w → (s.window w).currency ≠ .current) : AttemptTested s s.tryBegin := by
  unfold AttemptTested
  split
  · rename_i hn; exact tryBegin_none hn
  · rename_i w hw
    rw [tryBegin_some hw]
    unfold State.beginAttempt; dsimp only
    rw [changeCurrency_plain _ _ _ _ _ (Or.inl (by simpa [State.window, State.queueControl] using h w hw))]
    refine ⟨rfl, rfl, rfl, ?_, ?_, rfl⟩
    · rfl
    · exact ⟨rfl, rfl⟩

/-- While a departure of the Roster's examination is still to come the test does nothing. -/
theorem tryBegin_waits (h : s.DepartureDue) : s.tryBegin = s :=
  tryBegin_none (by
    obtain ⟨r, hr, hd⟩ := h
    unfold State.nextTried; rw [if_neg]; exact fun hc => hc.2.2 r hr hd)

/-- After the test no attempt that could begin waits. -/
theorem nextTried_tryBegin : s.tryBegin.nextTried = none := by
  cases h : s.nextTried with
  | none => rw [tryBegin_none h]; exact h
  | some w =>
    rw [tryBegin_some h]
    have : (s.beginAttempt w).catchUp ≠ none := by
      unfold State.beginAttempt; dsimp only; rw [changeCurrency_side]; simp
    unfold State.nextTried; rw [if_neg]; exact fun hc => this hc.2.1

end Sys2Proof.Laws
end

