-- ==== Sys2Proof/Laws/Losses.lean ====
section
/-! SUPPORT. Laws/Losses.lean: what a failed attempt, the losses of one happening and a yield of the cold contest do, once for
each (AttemptFailed, LossesTaken, Yielded). -/

namespace Sys2Proof.Machine

open Sys2Proof.Laws

variable {s t u : State}

/-! ## Reports -/

theorem reported_append (s : State) (a b : List Event) : s.reported (a ++ b) = (s.reported a).reported b :=
  List.foldl_append

/-- Two states with the same event queue report the same. -/
theorem reported_congr (h1 : t.events = s.events) (h2 : t.eventOverflow = s.eventOverflow) : ∀ (l : List Event),
    (t.reported l).events = (s.reported l).events ∧ (t.reported l).eventOverflow = (s.reported l).eventOverflow := by
  intro l
  induction l generalizing s t with
  | nil => exact ⟨h1, h2⟩
  | cons e l ih =>
    refine ih (s := s.appendEvent e) (t := t.appendEvent e) ?_ ?_ <;> simp only [State.appendEvent, h1, h2]

theorem Reports.nil (h1 : t.events = s.events) (h2 : t.eventOverflow = s.eventOverflow) : Reports s t [] := ⟨h1, h2⟩

theorem Reports.refl (s : State) : Reports s s [] := ⟨rfl, rfl⟩

theorem Reports.trans {a b : List Event} (h1 : Reports s t a) (h2 : Reports t u b) : Reports s u (a ++ b) := by
  have := reported_congr h1.1 h1.2 b
  unfold Reports; rw [reported_append, h2.1, h2.2]; exact this

/-- A change that does not touch the event queue reports nothing. -/
theorem Reports.of_eq {a : List Event} (h : Reports s t a) (h1 : u.events = t.events) (h2 : u.eventOverflow = t.eventOverflow) :
    Reports s u a := ⟨h1.trans h.1, h2.trans h.2⟩

theorem Reports.from_eq {a : List Event} (h : Reports s t a) (h1 : u.events = s.events)
    (h2 : u.eventOverflow = s.eventOverflow) : Reports u t a := by
  have := reported_congr h1 h2 a
  exact ⟨h.1.trans this.1.symm, h.2.trans this.2.symm⟩

theorem appendEvent_reports (s : State) (e : Event) : Reports s (s.appendEvent e) [e] := ⟨rfl, rfl⟩

theorem event_reports (s : State) (subject : Option Half) (d : EventDetail) :
    Reports s (s.event subject d) [⟨subject, s.clock.round, d⟩] := ⟨rfl, rfl⟩

/-! ## Records that go, one ending after another -/

theorem RecordsGone.refl_none (s : State) : RecordsGone (fun _ => false) s s where
  serving := by simp
  turnStays _ := rfl
  turnMoves _ _ _ _ _ h := by simp at h
  copyReadStays _ := ⟨rfl, rfl⟩
  copyReadGoes h := by simp at h

/-- Records that go in two endings have gone in one. -/
theorem RecordsGone.comp {e1 e2 : ServingRecord → Bool} (hn : (s.serving.map ServingRecord.pair).Nodup)
    (h1 : RecordsGone e1 s t) (h2 : RecordsGone e2 t u) : RecordsGone (fun r => e1 r || e2 r) s u := by
  have pair_inj : ∀ x ∈ s.serving, ∀ y ∈ s.serving, x.pair = y.pair → x = y := fun x hx y hy h =>
    List.inj_on_of_nodup_map hn hx hy h
  have ht : ∀ x ∈ t.serving, x ∈ s.serving := by rw [h1.serving]; simp +contextual
  refine ⟨?_, ?_, ?_, ?_, ?_⟩
  · rw [h2.serving, h1.serving, List.filter_filter]; congr 1; funext r; cases e1 r <;> cases e2 r <;> rfl
  · intro h
    have a := h1.turnStays fun r hr hr' => by have := h r hr hr'; simp at this; exact this.1
    have b := h2.turnStays fun r hr hr' => by have := h r (ht r hr) (a ▸ hr'); simp at this; exact this.2
    rw [b, a]
  · intro before r after hs hr he
    have hmem : r ∈ s.serving := by rw [hs]; simp
    have hfil : (before.filter fun q => !(e1 q || e2 q)) = (before.filter fun q => !e1 q).filter fun q => !e2 q := by
      rw [List.filter_filter]; congr 1; funext q; cases e1 q <;> cases e2 q <;> rfl
    have hts : t.serving = (before.filter fun q => !e1 q) ++ (r :: after).filter fun q => !e1 q := by
      rw [h1.serving, hs, List.filter_append]
    simp only [hfil]
    cases h1r : e1 r with
    | true =>
      have a := h1.turnMoves before r after hs hr h1r
      generalize hB : (before.filter fun q => !e1 q) = B at a hts ⊢
      rcases List.eq_nil_or_concat B with rfl | ⟨B', q, rfl⟩
      · simp at a
        have := h2.turnStays fun x _ hx' => by rw [a] at hx'; simp at hx'
        rw [this, a]; simp
      · simp only [List.concat_eq_append] at *
        have hq : t.turn = some q.pair := by rw [a]; simp
        cases h2q : e2 q with
        | true =>
          have := h2.turnMoves B' q ((r :: after).filter fun q => !e1 q) (by rw [hts]; simp) hq h2q
          rw [this]; simp [List.filter_append, h2q]
        | false =>
          have := h2.turnStays fun x hx hx' => by
            have : x = q := pair_inj x (ht x hx) q (ht q (by rw [hts]; simp)) (by rw [hq] at hx'; simpa using hx'.symm)
            rw [this]; exact h2q
          rw [this, hq]; simp [List.filter_append, h2q]
    | false =>
      have h2r : e2 r = true := by simpa [h1r] using he
      have a := h1.turnStays fun x hx hx' => by
        have : x = r := pair_inj x hx r hmem (by rw [hr] at hx'; simpa using hx'.symm)
        rw [this]; exact h1r
      exact h2.turnMoves _ r (after.filter fun q => !e1 q) (by rw [hts]; simp [h1r]) (a.trans hr) h2r
  · intro h
    have a := h1.copyReadStays fun r hr hr' => by have := h r hr hr'; simp at this; exact this.1
    have b := h2.copyReadStays fun r hr hr' => by have := h r (ht r hr) (a.1 ▸ hr'); simp at this; exact this.2
    exact ⟨b.1.trans a.1, b.2.trans a.2⟩
  · rintro ⟨r, hr, hc, he⟩
    cases h1r : e1 r with
    | true =>
      have a := h1.copyReadGoes ⟨r, hr, hc, h1r⟩
      have b := h2.copyReadStays fun x _ hx' => by rw [a.1] at hx'; simp at hx'
      exact ⟨b.1.trans a.1, b.2.trans a.2⟩
    | false =>
      have h2r : e2 r = true := by simpa [h1r] using he
      have a := h1.copyReadStays fun x hx hx' => by
        have : x = r := pair_inj x hx r hr (by rw [hc] at hx'; simpa using hx'.symm)
        rw [this]; exact h1r
      have b := h2.copyReadGoes ⟨r, by rw [h1.serving]; simp [hr, h1r], a.1.trans hc, h2r⟩
      exact ⟨b.1, by rw [b.2, a.2]⟩

/-- A test of records may be put for another that agrees with it on the list. -/
theorem RecordsGone.congr {e1 e2 : ServingRecord → Bool} (h : RecordsGone e1 s t) (he : ∀ r ∈ s.serving, e1 r = e2 r) :
    RecordsGone e2 s t where
  serving := by rw [h.serving]; exact List.filter_congr fun r hr => by rw [he r hr]
  turnStays h' := h.turnStays fun r hr hr' => by rw [he r hr]; exact h' r hr hr'
  turnMoves before r after hs hr hr' := by
    have hb : ∀ q ∈ before, e1 q = e2 q := fun q hq => he q (by rw [hs]; simp [hq])
    rw [h.turnMoves before r after hs hr (by rw [he r (by rw [hs]; simp)]; exact hr')]
    congr 2; exact List.filter_congr fun q hq => by rw [hb q hq]
  copyReadStays h' := h.copyReadStays fun r hr hr' => by rw [he r hr]; exact h' r hr hr'
  copyReadGoes h' := by
    obtain ⟨r, hr, hc, hr'⟩ := h'
    exact h.copyReadGoes ⟨r, hr, hc, by rw [he r hr]; exact hr'⟩

/-- A state with the Copy Server's fields and the Slot Filler's place of another has the same records gone. -/
theorem RecordsGone.of_eq {e : ServingRecord → Bool} (h : RecordsGone e s t) (h1 : u.serving = t.serving)
    (h2 : u.turn = t.turn) (h3 : u.copyRead = t.copyRead) (h4 : u.filler = t.filler) : RecordsGone e s u where
  serving := h1.trans h.serving
  turnStays h' := h2.trans (h.turnStays h')
  turnMoves before r after hs hr he := h2.trans (h.turnMoves before r after hs hr he)
  copyReadStays h' := ⟨h3.trans (h.copyReadStays h').1, h4.trans (h.copyReadStays h').2⟩
  copyReadGoes h' := ⟨h3.trans (h.copyReadGoes h').1, h4.trans (h.copyReadGoes h').2⟩

theorem RecordsGone.from_eq {e : ServingRecord → Bool} (h : RecordsGone e s t) (h1 : u.serving = s.serving)
    (h2 : u.turn = s.turn) (h3 : u.copyRead = s.copyRead) (h4 : u.filler = s.filler) : RecordsGone e u t where
  serving := by rw [h1]; exact h.serving
  turnStays h' := by rw [h2]; exact h.turnStays (by rw [h1, h2] at h'; exact h')
  turnMoves before r after hs hr he := h.turnMoves before r after (h1 ▸ hs) (h2 ▸ hr) he
  copyReadStays h' := by rw [h3, h4]; exact h.copyReadStays (by rw [h1, h3] at h'; exact h')
  copyReadGoes h' := by rw [h4]; exact h.copyReadGoes (by rw [h1, h3] at h'; exact h')

end Sys2Proof.Machine

namespace Sys2Proof.Laws

open Sys2Proof Sys2Proof.Machine

variable {s t u : State}

/-! ## A failed attempt -/

theorem window_set (s : State) (w x : WindowNo) (r : WindowRecord) :
    ({ s with windows := s.windows.set w r } : State).window x = if w = x then r else s.window x := by
  simp only [State.window]; rw [Fin.getElem_fin, Fin.getElem_fin, Vector.getElem_set]
  simp only [Fin.ext_iff]

/-- Nothing of a change of currency reaches beyond the window record and the event queue, where no record ends by it. -/
theorem changed_window (s : State) (w x : WindowNo) (next : Currency) (n : Nat) (cause : WindowCause)
    (failure : Option FailureKind) : (changed s w next n cause failure).window x =
      if w = x then { s.window w with currency := next, attempts := n, coldMark := none } else s.window x :=
  window_set s w x _

theorem changed_reports (s : State) (w : WindowNo) (next : Currency) (n : Nat) (cause : WindowCause)
    (failure : Option FailureKind) : Reports s (changed s w next n cause failure)
      [⟨subjectOf w.val, s.clock.round, .windowState (s.window w).currency next cause n failure⟩] := ⟨rfl, rfl⟩

theorem failAttempt_failed {c : CatchUp} (kind : FailureKind) (hc : s.catchUp = some c)
    (hcur : (s.window c.window).currency ≠ .current) (hl : c.window ∉ s.resync) :
    AttemptFailed kind s (s.failAttempt kind) := by
  refine ⟨c, hc, ?_⟩
  dsimp only
  -- the state after the Control Queue's side
  obtain ⟨v, hv, hvd⟩ : ∃ v, v = s.failControl c kind ∧ v = { s with catchUp := none, control := v.control } ∧
      v.control = (match c.phase with
        | .requested _ => s.control.erase ((s.window c.window).creq c.window c.attempt)
        | .copying donor _ _ =>
          if (kind = .stallExpired ∨ kind = .loss) ∧ donor ∉ c.cancelled then queued s.control (.ccan donor c.window)
          else s.control) := by
    refine ⟨_, rfl, ?_, ?_⟩
    all_goals
      unfold State.failControl
      clear hc hcur hl
      obtain ⟨_, _, phase, _⟩ := c
      cases phase with
      | requested _ => rfl
      | copying _ _ _ => dsimp only; split <;> rfl
  obtain ⟨hvs, hvq⟩ := hvd
  have hw : ∀ x, v.window x = s.window x := by intro x; rw [hvs]; rfl
  have hlim : v.attemptLimit = s.attemptLimit := by rw [hvs]; rfl
  have hf : s.failAttempt kind = v.failWindow c.window kind := by rw [hv]; simp only [State.failAttempt, hc]
  have hplain : ∀ next n cause f, v.changeCurrency c.window next n cause f = changed v c.window next n cause f :=
    fun _ _ _ _ => changeCurrency_plain _ _ _ _ _ (.inl (by rw [hw]; exact hcur))
  rw [hf]
  unfold State.failWindow
  simp only [hplain, hlim, hw]
  have hround : v.clock.round = s.clock.round := by rw [hvs]
  split
  · rename_i hb
    refine ⟨by rw [hvs]; rfl, ?_, ?_, ?_, hvq, ?_, ?_⟩
    · show (changed v c.window .stale ((s.window c.window).attempts + 1) .attemptFailed (some kind)).window c.window = _
      rw [changed_window, if_pos rfl, hw]
    · intro x hx
      show (changed v c.window .stale ((s.window c.window).attempts + 1) .attemptFailed (some kind)).window x = _
      rw [changed_window, if_neg (Ne.symm hx), hw]
    · show addOnce c.window v.resync = _
      rw [show v.resync = s.resync by rw [hvs], addOnce, if_neg hl]
    · refine ⟨?_, ?_⟩ <;> · simp only [changed, State.joinResync, State.event, State.setWindow, hround, hw]; rw [hvs]; rfl
    · rw [hvs]; rfl
  · rename_i hb
    refine ⟨by rw [hvs]; rfl, ?_, ?_, by rw [hvs]; rfl, hvq, ?_, ?_⟩
    · show (changed v c.window .stranded ((s.window c.window).attempts + 1) .attemptFailed (some kind)).window c.window = _
      rw [changed_window, if_pos rfl, hw]
    · intro x hx
      show (changed v c.window .stranded ((s.window c.window).attempts + 1) .attemptFailed (some kind)).window x = _
      rw [changed_window, if_neg (Ne.symm hx), hw]
    · refine ⟨?_, ?_⟩ <;> · simp only [changed, State.event, State.setWindow, State.appendEvent, hround, hw]; rw [hvs]; rfl
    · rw [hvs]; rfl

/-! ## Losses -/

/-- What a fold of losses rests on: the window records agree with the catch-up record, the resync list and the serving
list. -/
structure LossReady (s : State) : Prop where
  pairs : (s.serving.map ServingRecord.pair).Nodup
  current : ∀ r ∈ s.serving, (s.window r.window).currency = .current
  catchingUp : ∀ w, (s.window w).currency = .catchingUp ↔ ∃ c, s.catchUp = some c ∧ c.window = w
  listed : ∀ w ∈ s.resync, (s.window w).currency = .stale
  active : s.station ≠ .active → s.serving = [] ∧ s.catchUp = none

theorem lossReady_of_sound (h : s.Sound) : LossReady s where
  pairs := h.serving.pairs
  current := h.serving.current
  catchingUp := h.windows.catchingUp
  listed w hw := by
    by_cases ha : s.station = .active
    · exact (h.windows.listed ha w).1 hw
    · rw [h.quiet.resync ha] at hw; simp at hw
  active ha := ⟨h.quiet.serving ha, h.quiet.catchUp ha⟩

/-- The losses against the windows of a list have been raised. -/
structure LossFold (l : List WindowNo) (s t : State) : Prop where
  untouched : ∀ w, w ∉ l → t.window w = s.window w
  current : ∀ w ∈ l, (s.window w).currency = .current →
    t.window w = { s.window w with currency := .stale, coldMark := none }
  catchingUp : ∀ w ∈ l, (s.window w).currency = .catchingUp →
    t.window w = { s.window w with
      currency := if (s.window w).attempts + 1 < s.attemptLimit then .stale else .stranded
      attempts := (s.window w).attempts + 1, coldMark := none }
  others : ∀ w, (s.window w).currency ≠ .current → (s.window w).currency ≠ .catchingUp → t.window w = s.window w
  record : t.catchUp = if s.catchUp.any (fun c => decide (c.window ∈ l)) = true then none else s.catchUp
  listed : t.resync = if s.station = .active then s.resync ++ l.filter (lossStales s) else s.resync
  records : RecordsGone (fun r => decide (r.window ∈ l)) s t
  control : t.control = l.foldl (lossQueue s) s.control
  events : Reports s t (l.map (lossEvents s)).flatten
  frame : CatchUpSide s t

theorem CatchUpSide.station (h : CatchUpSide s t) : t.station = s.station := by rw [h]
theorem CatchUpSide.clock (h : CatchUpSide s t) : t.clock = s.clock := by rw [h]
theorem CatchUpSide.profile (h : CatchUpSide s t) : t.profile = s.profile := by rw [h]
theorem CatchUpSide.attemptLimit (h : CatchUpSide s t) : t.attemptLimit = s.attemptLimit := by
  unfold State.attemptLimit; rw [h.profile]

/-- A loss against a window of any other currency than CURRENT and CATCHING_UP is none. -/
theorem loss_none (w : WindowNo) (h1 : (s.window w).currency ≠ .current) (h2 : (s.window w).currency ≠ .catchingUp) :
    s.loss w = s := by
  unfold State.loss; split <;> first | rfl | contradiction

/-- No serving record of a window is left out by a test that only records of other windows pass. -/
theorem recordsGone_none {e : ServingRecord → Bool} (h : ∀ r ∈ s.serving, e r = false) : RecordsGone e s s :=
  (RecordsGone.refl_none s).congr fun r hr => (h r hr).symm

theorem lossFold_current {w : WindowNo} (hr : LossReady s) (hc : (s.window w).currency = .current) :
    LossFold [w] s (s.loss w) := by
  have hl : w ∉ s.resync := fun h => by have := hr.listed w h; rw [hc] at this; cases this
  have hno : ∀ c, s.catchUp = some c → c.window ≠ w := fun c hs h => by
    have := (hr.catchingUp w).2 ⟨c, hs, h⟩; rw [hc] at this; cases this
  have hrec : s.catchUp = if s.catchUp.any (fun c => decide (c.window ∈ [w])) = true then none else s.catchUp := by
    cases hs : s.catchUp with
    | none => rfl
    | some c => simp [hno c hs]
  have hstale : lossStales s w = true := by simp [lossStales, hc]
  have hev : lossEvents s w = [⟨subjectOf w.val, s.clock.round, .windowState .current .stale .loss (s.window w).attempts none⟩] := by
    simp [lossEvents, hc]
  by_cases ha : s.station = .active
  · have he : s.loss w = ((changed s w .stale (s.window w).attempts .loss none).abortServing w).joinResync w := by
      unfold State.loss; rw [hc]; dsimp only; rw [if_pos ha, changeCurrency_leaving _ _ _ _ _ hc (by decide) ha]
    obtain ⟨hg, hq⟩ := abortServing_ended (s := changed s w .stale (s.window w).attempts .loss none) w hr.pairs
    have hside := abortServing_side (changed s w .stale (s.window w).attempts .loss none) w
    have hcu : CatchUpSide s (s.loss w) := loss_side s w
    rw [he] at hcu ⊢
    have hwin : ∀ x, (((changed s w .stale (s.window w).attempts .loss none).abortServing w).joinResync w).window x =
        if w = x then { s.window w with currency := .stale, coldMark := none } else s.window x := by
      intro x
      have : (((changed s w .stale (s.window w).attempts .loss none).abortServing w).joinResync w).window x =
          (changed s w .stale (s.window w).attempts .loss none).window x := by
        show State.window (State.abortServing _ w) x = _
        rw [hside]; rfl
      rw [this, changed_window]
    refine ⟨?_, ?_, ?_, ?_, ?_, ?_, ?_, ?_, ?_, hcu⟩
    · intro x hx; rw [hwin, if_neg]; simpa [eq_comm] using hx
    · intro x hx _; simp only [List.mem_singleton] at hx; subst hx; rw [hwin, if_pos rfl]
    · intro x hx hx'; simp only [List.mem_singleton] at hx; subst hx; rw [hc] at hx'; cases hx'
    · intro x hx _; rw [hwin, if_neg]; rintro rfl; exact hx hc
    · rw [← hrec]; show (State.abortServing _ w).catchUp = _; rw [hside]; rfl
    · rw [if_pos ha]
      show addOnce w (State.abortServing _ w).resync = _
      rw [show (State.abortServing _ w).resync = s.resync by rw [hside]; rfl, addOnce, if_neg hl]
      simp [hstale]
    · have h1 : RecordsGone (fun r => decide (r.window = w)) s
          ((changed s w .stale (s.window w).attempts .loss none).abortServing w) := hg.from_eq rfl rfl rfl rfl
      have h2 : RecordsGone (fun r => decide (r.window ∈ [w])) s
          ((changed s w .stale (s.window w).attempts .loss none).abortServing w) := h1.congr fun r _ => by simp
      exact h2.of_eq rfl rfl rfl rfl
    · show (State.abortServing _ w).control = _
      rw [hq]
      simp only [List.foldl_cons, List.foldl_nil, lossQueue, hc]
      rfl
    · simp only [List.map_cons, List.map_nil, List.flatten_cons, List.flatten_nil, List.append_nil, hev]
      refine Reports.of_eq (t := changed s w .stale (s.window w).attempts .loss none) ?_ ?_ ?_
      · have := changed_reports s w .stale (s.window w).attempts .loss none; rwa [hc] at this
      · show (State.abortServing _ w).events = _; rw [hside]
      · show (State.abortServing _ w).eventOverflow = _; rw [hside]
  · have he : s.loss w = changed s w .stale (s.window w).attempts .loss none := by
      unfold State.loss; rw [hc]; dsimp only; rw [if_neg ha, changeCurrency_plain _ _ _ _ _ (.inr (.inr ha))]
    have hcu : CatchUpSide s (s.loss w) := loss_side s w
    have hs := (hr.active ha).1
    rw [he] at hcu ⊢
    refine ⟨?_, ?_, ?_, ?_, hrec, by rw [if_neg ha]; rfl, ?_, ?_, ?_, hcu⟩
    · intro x hx; rw [changed_window, if_neg]; simpa [eq_comm] using hx
    · intro x hx _; simp only [List.mem_singleton] at hx; subst hx; rw [changed_window, if_pos rfl]
    · intro x hx hx'; simp only [List.mem_singleton] at hx; subst hx; rw [hc] at hx'; cases hx'
    · intro x hx _; rw [changed_window, if_neg]; rintro rfl; exact hx hc
    · exact (recordsGone_none (by rw [hs]; simp)).of_eq rfl rfl rfl rfl
    · simp only [List.foldl_cons, List.foldl_nil, lossQueue, hc, hs]; rfl
    · simp only [List.map_cons, List.map_nil, List.flatten_cons, List.flatten_nil, List.append_nil, hev]
      have := changed_reports s w .stale (s.window w).attempts .loss none; rwa [hc] at this

theorem lossFold_catchingUp {w : WindowNo} (hr : LossReady s) (hc : (s.window w).currency = .catchingUp) :
    LossFold [w] s (s.loss w) := by
  obtain ⟨c, hs, rfl⟩ := (hr.catchingUp w).1 hc
  have hl : c.window ∉ s.resync := fun h => by have := hr.listed _ h; rw [hc] at this; cases this
  have ha : s.station = .active := by
    by_contra h; have := (hr.active h).2; rw [hs] at this; cases this
  have he : s.loss c.window = s.failAttempt .loss := by unfold State.loss; rw [hc]
  obtain ⟨c', hs', h1, h2, h3, h4, h5, h6, h7⟩ := failAttempt_failed .loss hs (by rw [hc]; decide) hl
  obtain rfl : c' = c := by rw [hs] at hs'; simpa using hs'.symm
  rw [he]
  refine ⟨?_, ?_, ?_, ?_, ?_, ?_, ?_, ?_, ?_, failAttempt_side s .loss⟩
  · intro x hx; exact h3 x (by simpa using hx)
  · intro x hx hx'; simp only [List.mem_singleton] at hx; subst hx; rw [hc] at hx'; cases hx'
  · intro x hx _; simp only [List.mem_singleton] at hx; subst hx; exact h2
  · intro x _ hx; exact h3 x fun h => hx (h ▸ hc)
  · rw [h1, hs]; simp
  · rw [h4, if_pos ha]
    by_cases hb : (s.window c'.window).attempts + 1 < s.attemptLimit
    · simp [hb, lossStales, hc]
    · simp [hb, lossStales, hc]
  · refine (recordsGone_none fun r hr' => ?_).of_eq (by rw [h7]) (by rw [h7]) (by rw [h7]) (by rw [h7])
    have := hr.current r hr'
    simp only [List.mem_singleton, decide_eq_false_iff_not]
    intro h; rw [h, hc] at this; cases this
  · rw [h5]
    simp only [List.foldl_cons, List.foldl_nil, lossQueue, hc, hs]
    obtain ⟨cw, n, phase, cc⟩ := c'
    cases phase with
    | requested _ => rfl
    | copying donor _ _ => dsimp only; by_cases hd : donor ∈ cc <;> simp [hd]
  · simp only [List.map_cons, List.map_nil, List.flatten_cons, List.flatten_nil, List.append_nil, lossEvents, hc]
    rw [hc] at h6
    split at h6 <;> rename_i hb
    · rw [if_pos hb]; simpa [hb] using h6
    · rw [if_neg hb]; simpa [hb] using h6

theorem lossFold_one (w : WindowNo) (hr : LossReady s) : LossFold [w] s (s.loss w) := by
  by_cases h1 : (s.window w).currency = .current
  · exact lossFold_current hr h1
  · by_cases h2 : (s.window w).currency = .catchingUp
    · exact lossFold_catchingUp hr h2
    · rw [loss_none w h1 h2]
      have hstale : lossStales s w = false := by simp [lossStales, h1, h2]
      have hno : ∀ c, s.catchUp = some c → c.window ≠ w := fun c hs h => h2 ((hr.catchingUp w).2 ⟨c, hs, h⟩)
      refine ⟨fun _ _ => rfl, ?_, ?_, fun _ _ _ => rfl, ?_, ?_, ?_, ?_, ?_, .refl s⟩
      · intro x hx hx'; simp only [List.mem_singleton] at hx; subst hx; exact absurd hx' h1
      · intro x hx hx'; simp only [List.mem_singleton] at hx; subst hx; exact absurd hx' h2
      · cases hs : s.catchUp with
        | none => rfl
        | some c => simp [hno c hs]
      · simp [hstale]
      · refine recordsGone_none fun r hr' => ?_
        have := hr.current r hr'
        simp only [List.mem_singleton, decide_eq_false_iff_not]
        intro h; rw [h] at this; exact h1 this
      · simp only [List.foldl_cons, List.foldl_nil, lossQueue]; split
        · rename_i h; exact absurd h h1
        · rename_i h; exact absurd h h2
        all_goals rfl
      · simp only [List.map_cons, List.map_nil, List.flatten_cons, List.flatten_nil, List.append_nil, lossEvents]
        split
        · rename_i h; exact absurd h h1
        · rename_i h; exact absurd h h2
        all_goals exact .refl s

/-- After a loss the state is ready for the next. -/
theorem LossFold.ready {l : List WindowNo} (hr : LossReady s) (h : LossFold l s t) : LossReady t := by
  have hst : ∀ w, (t.window w).currency = .current → (s.window w).currency = .current ∧ w ∉ l := by
    intro w hw
    by_cases h1 : (s.window w).currency = .current
    · refine ⟨h1, fun hl => ?_⟩
      rw [h.current w hl h1] at hw; cases hw
    · by_cases h2 : (s.window w).currency = .catchingUp
      · by_cases hl : w ∈ l
        · rw [h.catchingUp w hl h2] at hw; dsimp only at hw; split at hw <;> cases hw
        · rw [h.untouched w hl] at hw; exact absurd hw h1
      · rw [h.others w h1 h2] at hw; exact absurd hw h1
  refine ⟨?_, ?_, ?_, ?_, ?_⟩
  · rw [h.records.serving]; exact hr.pairs.sublist (List.filter_sublist.map _)
  · intro r hr'
    rw [h.records.serving] at hr'
    simp only [List.mem_filter, Bool.not_eq_true', decide_eq_false_iff_not] at hr'
    rw [h.untouched _ hr'.2]; exact hr.current r hr'.1
  · intro w
    rw [h.record]
    constructor
    · intro hw
      have h1 : (s.window w).currency = .catchingUp ∧ w ∉ l := by
        by_cases h1 : (s.window w).currency = .current
        · by_cases hl : w ∈ l
          · rw [h.current w hl h1] at hw; cases hw
          · rw [h.untouched w hl, h1] at hw; cases hw
        · by_cases h2 : (s.window w).currency = .catchingUp
          · refine ⟨h2, fun hl => ?_⟩
            rw [h.catchingUp w hl h2] at hw; dsimp only at hw; split at hw <;> cases hw
          · rw [h.others w h1 h2] at hw; exact absurd hw h2
      obtain ⟨c, hc, rfl⟩ := (hr.catchingUp w).1 h1.1
      rw [hc]; simp [h1.2]
    · rintro ⟨c, hc, rfl⟩
      split at hc
      · cases hc
      · rename_i hn
        rw [hc] at hn; simp at hn
        rw [h.untouched _ hn]; exact (hr.catchingUp _).2 ⟨c, hc, rfl⟩
  · intro w hw
    rw [h.listed] at hw
    have key : w ∈ s.resync ∨ (w ∈ l ∧ lossStales s w = true) := by
      split at hw
      · simpa using hw
      · exact .inl hw
    rcases key with hw | ⟨hl, hw⟩
    · have := hr.listed w hw
      rw [h.others w (by rw [this]; decide) (by rw [this]; decide)]; exact this
    · simp only [lossStales, Bool.or_eq_true, decide_eq_true_eq, Bool.and_eq_true] at hw
      rcases hw with hw | ⟨hw, hb⟩
      · rw [h.current w hl hw]
      · rw [h.catchingUp w hl hw]; simp [hb]
  · intro ha
    rw [h.frame.station] at ha
    obtain ⟨h1, h2⟩ := hr.active ha
    refine ⟨by rw [h.records.serving, h1]; rfl, by rw [h.record, h2]; rfl⟩

theorem LossFold.comp {l1 l2 : List WindowNo} (hr : LossReady s) (hd : ∀ w ∈ l2, w ∉ l1) (h1 : LossFold l1 s t)
    (h2 : LossFold l2 t u) : LossFold (l1 ++ l2) s u := by
  have hw : ∀ w ∈ l2, t.window w = s.window w := fun w hw => h1.untouched w (hd w hw)
  have hlim := h1.frame.attemptLimit
  have hclk := h1.frame.clock
  have hcatch : ∀ w ∈ l2, (s.window w).currency = .catchingUp → t.catchUp = s.catchUp := by
    intro w hl hc
    obtain ⟨c, hs, rfl⟩ := (hr.catchingUp w).1 hc
    rw [h1.record, hs]; simp [hd _ hl]
  have hser : ∀ w ∈ l2, (t.serving.filter fun r => decide (r.window = w)) = s.serving.filter fun r => decide (r.window = w) := by
    intro w hl
    rw [h1.records.serving, List.filter_filter]
    refine List.filter_congr fun r _ => ?_
    by_cases h : r.window = w
    · simp [h, hd w hl]
    · simp [h]
  refine ⟨?_, ?_, ?_, ?_, ?_, ?_, ?_, ?_, ?_, h1.frame.trans h2.frame⟩
  · intro w hw'; simp only [List.mem_append, not_or] at hw'; rw [h2.untouched w hw'.2, h1.untouched w hw'.1]
  · intro w hl hc
    by_cases hl2 : w ∈ l2
    · rw [h2.current w hl2 (by rw [hw w hl2]; exact hc), hw w hl2]
    · rw [h2.untouched w hl2]; exact h1.current w (by simpa [hl2] using hl) hc
  · intro w hl hc
    by_cases hl2 : w ∈ l2
    · rw [h2.catchingUp w hl2 (by rw [hw w hl2]; exact hc), hw w hl2, hlim]
    · rw [h2.untouched w hl2]; exact h1.catchingUp w (by simpa [hl2] using hl) hc
  · intro w ha hb
    have := h1.others w ha hb
    rw [h2.others w (by rw [this]; exact ha) (by rw [this]; exact hb), this]
  · rw [h2.record, h1.record]
    cases hs : s.catchUp with
    | none => simp
    | some c =>
      by_cases ha : c.window ∈ l1
      · simp [ha]
      · by_cases hb : c.window ∈ l2 <;> simp [ha, hb]
  · rw [h2.listed, h1.listed, h1.frame.station]
    split
    · rw [List.filter_append, List.append_assoc]; congr 2
      refine List.filter_congr fun w hl => ?_
      simp only [lossStales, hw w hl, hlim]
    · rfl
  · exact (h1.records.comp hr.pairs h2.records).congr fun r _ => by
      by_cases ha : r.window ∈ l1 <;> by_cases hb : r.window ∈ l2 <;> simp [ha, hb]
  · rw [h2.control, h1.control, List.foldl_append]
    have : ∀ (l : List WindowNo) (q : List FrameBody), (∀ w ∈ l, w ∈ l2) → l.foldl (lossQueue t) q = l.foldl (lossQueue s) q := by
      intro l
      induction l with
      | nil => intro _ _; rfl
      | cons w l ih =>
        intro q hl
        have hwl : w ∈ l2 := hl w (by simp)
        have : lossQueue t q w = lossQueue s q w := by
          unfold lossQueue
          rw [hw w hwl, hser w hwl]
          cases hcw : (s.window w).currency with
          | catchingUp => rw [hcatch w hwl hcw]
          | _ => rfl
        rw [List.foldl_cons, List.foldl_cons, this]; exact ih _ fun x hx => hl x (by simp [hx])
    exact this l2 _ fun _ h => h
  · rw [List.map_append, List.flatten_append]
    refine Reports.trans h1.events ?_
    have : l2.map (lossEvents t) = l2.map (lossEvents s) := List.map_congr_left fun w hl => by
      unfold lossEvents; rw [hw w hl, hclk, hlim]
    rw [← this]; exact h2.events

theorem lossFold : ∀ (l : List WindowNo) {s : State}, LossReady s → l.Nodup → LossFold l s (l.foldl State.loss s)
  | [], s, _, _ => by
    refine ⟨fun _ _ => rfl, by simp, by simp, fun _ _ _ => rfl, ?_, by simp, recordsGone_none (by simp), rfl, Reports.refl s, .refl s⟩
    simp only [List.foldl_nil]; cases s.catchUp <;> simp
  | w :: l, s, hr, hn => by
    have h1 := lossFold_one w hr
    have h2 := lossFold l (h1.ready hr) (List.nodup_cons.1 hn).2
    exact LossFold.comp hr (by intro x hx hx'; simp only [List.mem_singleton] at hx'; exact (List.nodup_cons.1 hn).1 (hx' ▸ hx)) h1 h2

/-- The losses of one happening, raised in window-number order, do what LossesTaken says. -/
theorem losses_taken (test : WindowNo → Bool) (hr : LossReady s) : LossesTaken test s (s.losses test) := by
  have h : LossFold (allWindows.filter test) s (s.losses test) := lossFold _ hr ((List.nodup_finRange 32).filter _)
  have hm : ∀ w, w ∈ allWindows.filter test ↔ test w = true := fun w => by simp [allWindows]
  have hs := losses_side s test
  refine ⟨?_, ?_, ?_, h.others, ?_, ?_, ?_, h.control, h.events, ?_⟩
  · intro w hw; exact h.untouched w (by rw [hm, hw]; decide)
  · intro w hw; exact h.current w ((hm w).2 hw)
  · intro w hw; exact h.catchingUp w ((hm w).2 hw)
  · rw [h.record]; simp only [hm]; congr 1; cases s.catchUp <;> simp
  · rw [h.listed, List.filter_filter]
    split
    · congr 1; refine List.filter_congr fun w _ => ?_; rw [Bool.and_comm]
    · rfl
  · exact h.records.congr fun r _ => by simp [hm]
  · rw [hs]

end Sys2Proof.Laws
end

