-- ==== Sys2Proof/Laws/Departures.lean ====
section
/-! SUPPORT. Laws/Departures.lean: what a yield of the cold contest, a peer's departure, the ending of an account and coming off
the line do, once for each (Yielded, Departed, AccountFinished, EndedUnclosed, CameOff). -/

namespace Sys2Proof.Laws

open Sys2Proof Sys2Proof.Machine

variable {s t u : State}

/-! ## The yield of the cold contest -/

/-- The windows of a list, each CURRENT, have been yielded. -/
structure YieldFold (l : List WindowNo) (s t : State) : Prop where
  windows : ∀ w, t.window w = if w ∈ l then { s.window w with currency := .stale, coldMark := none } else s.window w
  listed : t.resync = s.resync ++ l
  records : RecordsGone (fun r => decide (r.window ∈ l)) s t
  control : t.control = l.foldl (lossQueue s) s.control
  events : Reports s t (l.map fun w =>
    ⟨subjectOf w.val, s.clock.round, .windowState .current .stale .coldYield (s.window w).attempts none⟩)
  frame : t = { s with
    windows := t.windows, resync := t.resync, control := t.control, copyRead := t.copyRead, filler := t.filler
    serving := t.serving, turn := t.turn, events := t.events, eventOverflow := t.eventOverflow }

theorem yieldFold : ∀ (l : List WindowNo) {s : State}, s.station = .active → (s.serving.map ServingRecord.pair).Nodup →
    l.Nodup → (∀ w ∈ l, (s.window w).currency = .current ∧ w ∉ s.resync) →
    YieldFold l s (l.foldl State.yieldWindow s)
  | [], s, _, _, _, _ => ⟨by simp, by simp, recordsGone_none (by simp), rfl, .refl s, rfl⟩
  | w :: l, s, ha, hp, hn, hc => by
    obtain ⟨hw, hl⟩ := hc w (by simp)
    obtain ⟨hwl, hnl⟩ := List.nodup_cons.1 hn
    let c := changed s w .stale (s.window w).attempts .coldYield none
    have hy : s.yieldWindow w = (c.abortServing w).joinResync w := by
      unfold State.yieldWindow; rw [changeCurrency_leaving _ _ _ _ _ hw (by decide) ha]
    obtain ⟨hg, hq⟩ := abortServing_ended (s := c) w hp
    have hside := abortServing_side c w
    have hframe : s.yieldWindow w = { s with
        windows := c.windows, resync := s.resync ++ [w], control := (c.abortServing w).control
        copyRead := (c.abortServing w).copyRead, filler := (c.abortServing w).filler
        serving := (c.abortServing w).serving, turn := (c.abortServing w).turn
        events := c.events, eventOverflow := c.eventOverflow } := by
      rw [hy]; unfold State.joinResync
      rw [show addOnce w (c.abortServing w).resync = s.resync ++ [w] by
        rw [show (c.abortServing w).resync = s.resync by rw [hside]; rfl, addOnce, if_neg hl]]
      rw [hside]; rfl
    have hwin : ∀ x, (s.yieldWindow w).window x =
        if w = x then { s.window w with currency := .stale, coldMark := none } else s.window x := by
      intro x
      have : (s.yieldWindow w).window x = c.window x := by rw [hframe]; rfl
      rw [this, changed_window]
    have h1g : RecordsGone (fun r => decide (r.window ∈ [w])) s (s.yieldWindow w) := by
      rw [hy]
      have h1 : RecordsGone (fun r => decide (r.window = w)) s (c.abortServing w) := hg.from_eq rfl rfl rfl rfl
      have h2 : RecordsGone (fun r => decide (r.window ∈ [w])) s (c.abortServing w) := h1.congr fun r _ => by simp
      exact h2.of_eq rfl rfl rfl rfl
    have h1e : Reports s (s.yieldWindow w)
        [⟨subjectOf w.val, s.clock.round, .windowState .current .stale .coldYield (s.window w).attempts none⟩] := by
      have := changed_reports s w .stale (s.window w).attempts .coldYield none
      rw [hw] at this
      exact this.of_eq (by rw [hframe]) (by rw [hframe])
    have h1q : (s.yieldWindow w).control = lossQueue s s.control w := by
      rw [hframe]; show (c.abortServing w).control = _
      rw [hq]; simp only [lossQueue, hw]; rfl
    have hne : ∀ x ∈ l, w ≠ x := fun x hx h => hwl (h ▸ hx)
    have hser : ∀ x ∈ l, ((s.yieldWindow w).serving.filter fun r => decide (r.window = x)) =
        s.serving.filter fun r => decide (r.window = x) := by
      intro x hx
      rw [h1g.serving, List.filter_filter]
      refine List.filter_congr fun r _ => ?_
      by_cases h : r.window = x
      · simp [h, Ne.symm (hne x hx)]
      · simp [h]
    have h2 := yieldFold l (s := s.yieldWindow w) (by rw [hframe]; exact ha)
      (by rw [h1g.serving]; exact hp.sublist (List.filter_sublist.map _)) hnl (by
        intro x hx
        rw [hwin, if_neg (hne x hx)]
        refine ⟨(hc x (by simp [hx])).1, ?_⟩
        rw [hframe]; simp [(hc x (by simp [hx])).2, Ne.symm (hne x hx)])
    rw [List.foldl_cons]
    refine ⟨?_, ?_, ?_, ?_, ?_, ?_⟩
    · intro x
      rw [h2.windows, hwin]
      by_cases hx : x = w
      · subst hx; simp [hwl]
      · by_cases hxl : x ∈ l
        · simp [hxl, Ne.symm hx]
        · simp [hxl, hx, Ne.symm hx]
    · rw [h2.listed, hframe]; simp
    · exact (h1g.comp hp h2.records).congr fun r _ => by simp
    · rw [h2.control, h1q, List.foldl_cons]
      have : ∀ (m : List WindowNo) (q : List FrameBody), (∀ x ∈ m, x ∈ l) →
          m.foldl (lossQueue (s.yieldWindow w)) q = m.foldl (lossQueue s) q := by
        intro m
        induction m with
        | nil => intro _ _; rfl
        | cons x m ih =>
          intro q hm
          have hx : x ∈ l := hm x (by simp)
          have : lossQueue (s.yieldWindow w) q x = lossQueue s q x := by
            unfold lossQueue
            rw [hwin, if_neg (hne x hx), hser x hx, (hc x (by simp [hx])).1]
          rw [List.foldl_cons, List.foldl_cons, this]; exact ih _ fun y hy => hm y (by simp [hy])
      exact this l _ fun _ h => h
    · have : (l.map fun x => (⟨subjectOf x.val, (s.yieldWindow w).clock.round,
            .windowState .current .stale .coldYield ((s.yieldWindow w).window x).attempts none⟩ : Event)) =
          l.map fun x => ⟨subjectOf x.val, s.clock.round, .windowState .current .stale .coldYield (s.window x).attempts none⟩ := by
        refine List.map_congr_left fun x hx => ?_
        rw [hwin, if_neg (hne x hx)]; rw [hframe]
      have := this ▸ h2.events
      exact h1e.trans this
    · rw [h2.frame, hframe]

theorem coldYield_yielded (x : StationNo) (misaligned : Bool) (ha : s.station = .active) (hr : LossReady s) :
    Yielded x misaligned s (s.coldYield x misaligned) := by
  let r := s.event (subjectOf x.toNat) (.coldYield misaligned s.currentWindows.length)
  have hm : ∀ w, w ∈ s.currentWindows ↔ (s.window w).currency = .current := by
    intro w; simp [State.currentWindows, allWindows]
  have h := yieldFold s.currentWindows (s := r) ha hr.pairs ((List.nodup_finRange 32).filter _) (by
    intro w hw
    refine ⟨(hm w).1 hw, fun hl => ?_⟩
    have := hr.listed w hl; rw [(hm w).1 hw] at this; cases this)
  have hcur : s.currentWindows = allWindows.filter fun w => decide ((s.window w).currency = .current) := rfl
  have he : s.coldYield x misaligned =
      (s.currentWindows.foldl State.yieldWindow r).mapWindows fun q => { q with coldMark := none } := rfl
  generalize hv : s.currentWindows.foldl State.yieldWindow r = v at h he
  refine ⟨?_, ?_, ?_, ?_, ?_, ?_⟩
  · intro w
    rw [he, mapWindows_window, h.windows]
    have hrw : r.window w = s.window w := rfl
    by_cases hw : (s.window w).currency = .current
    · rw [if_pos ((hm w).2 hw), hrw, if_pos hw]
    · rw [if_neg fun h => hw ((hm w).1 h), hrw, if_neg hw]
  · rw [he, mapWindows_resync, h.listed]; rfl
  · have h1 : RecordsGone (fun q => decide (q.window ∈ s.currentWindows)) s v := h.records.from_eq rfl rfl rfl rfl
    have h2 : RecordsGone (fun q => decide ((s.window q.window).currency = .current)) s v :=
      h1.congr fun q _ => by simp [hm]
    rw [he]
    exact h2.of_eq (mapWindows_serving _ _) (mapWindows_turn _ _) (mapWindows_copyRead _ _) (mapWindows_filler _ _)
  · rw [he, mapWindows_control, h.control]; rfl
  · rw [he]
    have h1 : Reports s r [⟨subjectOf x.toNat, s.clock.round, .coldYield misaligned s.currentWindows.length⟩] :=
      event_reports s _ _
    have h2 := h1.trans h.events
    exact h2.of_eq (mapWindows_events _ _) (mapWindows_eventOverflow _ _)
  · rw [he]; unfold State.mapWindows; rw [h.frame]; rfl

/-! ## A departure -/

theorem donorDeparted_eq (station : StationNo) : s.donorDeparted station =
    if s.donor = some station then s.failAttempt .donorAbsent else s := by
  unfold State.donorDeparted State.donor
  cases hc : s.catchUp with
  | none => simp
  | some c =>
    obtain ⟨w, n, phase, cc⟩ := c
    cases phase with
    | requested _ => simp
    | copying donor _ _ => dsimp only; by_cases h : donor = station <;> simp [h]

theorem depart_departed (station : StationNo) (next : RosterState) (cause : DepartCause) (hr : LossReady s) :
    Departed station next cause s (s.depart station next cause) := by
  unfold Departed State.depart
  cases hs : s.rosterOf station with
  | none => rfl
  | some r =>
    dsimp only
    by_cases hp : r.state = .present
    · rw [if_pos hp, if_pos hp]
      let u := (s.updateRoster station fun r => { r with state := next }).event (subjectOf station.toNat)
        (.peerDeparted cause r.lastHeard)
      have hu : LossReady u := ⟨hr.pairs, hr.current, hr.catchingUp, hr.listed, hr.active⟩
      have hv := donorDeparted_eq (s := u) station
      refine ⟨u, u.donorDeparted station, ⟨rfl, rfl⟩, rfl, ?_, ?_, ?_⟩
      · rw [hv]
        have hd : u.donor = s.donor := rfl
        rw [hd]
        split
        · rename_i hdo
          have hdo' := hdo
          unfold State.donor at hdo'
          cases hc : s.catchUp with
          | none => rw [hc] at hdo'; simp at hdo'
          | some c =>
            have hcw : (s.window c.window).currency = .catchingUp := (hr.catchingUp _).2 ⟨c, hc, rfl⟩
            exact failAttempt_failed (s := u) (c := c) .donorAbsent hc (by show (s.window c.window).currency ≠ _; rw [hcw]; decide)
              fun hl => by have := hr.listed _ hl; rw [hcw] at this; cases this
        · rfl
      · exact joinerDeparted_ended station (by
          rw [hv]; split
          · rename_i hdo
            have hdo' := hdo
            unfold State.donor at hdo'
            cases hc : u.catchUp with
            | none => rw [hc] at hdo'; simp at hdo'
            | some c =>
              have hcw : (u.window c.window).currency = .catchingUp := (hu.catchingUp _).2 ⟨c, hc, rfl⟩
              obtain ⟨_, _, _, _, _, _, _, _, h7⟩ := failAttempt_failed (s := u) (c := c) .donorAbsent hc
                (by rw [hcw]; decide) fun hl => by have := hu.listed _ hl; rw [hcw] at this; cases this
              rw [h7]; exact hr.pairs
          · exact hr.pairs)
      · exact joinerDeparted_side _ _
    · rw [if_neg hp, if_neg hp]; rfl

/-! ## The ending of an account -/

/-- A change of the notices alone keeps what losses and departures rest on. -/
theorem LossReady.of_eq (h : LossReady s) (h1 : t.serving = s.serving) (h2 : t.windows = s.windows)
    (h3 : t.catchUp = s.catchUp) (h4 : t.resync = s.resync) (h5 : t.station = s.station) : LossReady t := by
  have hw : ∀ w, t.window w = s.window w := fun w => by unfold State.window; rw [h2]
  refine ⟨?_, ?_, ?_, ?_, ?_⟩
  · rw [h1]; exact h.pairs
  · intro r hr; rw [hw]; exact h.current r (h1 ▸ hr)
  · intro w; rw [hw, h3]; exact h.catchingUp w
  · intro w hw'; rw [hw]; exact h.listed w (h4 ▸ hw')
  · rw [h5, h1, h3]; exact h.active

theorem deliver_eq (s : State) (n : Notice) : s.deliver n = { s with notices := (s.deliver n).notices } := by
  unfold State.deliver; split <;> rfl

theorem deliverAll_eq : ∀ (l : List Notice) (s : State), s.deliverAll l = { s with notices := (s.deliverAll l).notices }
  | [], _ => rfl
  | n :: l, s => by
    have h1 := deliver_eq s n
    have h2 := deliverAll_eq l (s.deliver n)
    have h3 : s.deliverAll (n :: l) = (s.deliver n).deliverAll l := rfl
    rw [h3]
    generalize (s.deliver n).deliverAll l = v at h2
    generalize s.deliver n = u at h1 h2
    rw [h2, h1]

theorem finishAccount_finished (a : Account) (hr : LossReady s) : AccountFinished a s (s.finishAccount a) := by
  have h : LossReady (s.deliverAll a.held) := by
    rw [deliverAll_eq]; exact hr.of_eq rfl rfl rfl rfl rfl
  refine ⟨s.deliverAll a.held, deliverAll_eq _ _, ?_⟩
  unfold State.finishAccount
  cases a.leaving with
  | true => exact depart_departed _ _ _ h
  | false => rfl

theorem LossesTaken.ready {test : WindowNo → Bool} (hr : LossReady s) (ht : t = s.losses test) : LossReady t := by
  subst ht
  exact (lossFold _ hr ((List.nodup_finRange 32).filter _)).ready hr

theorem endUnclosed_ended (a : Account) (ending : AccountEnding) (hr : LossReady s) :
    EndedUnclosed a ending s (s.endUnclosed a ending) := by
  let u := ({ s with account := none } : State).slotLossEvent a.sender
    (.slotLoss .noClose a.slot (some ending) a.frames a.updates none a.corrupt)
  have hu : LossReady u := hr.of_eq rfl rfl rfl rfl rfl
  refine ⟨u, u.losses fun w => (u.window w).isHeld, ⟨rfl, rfl⟩, rfl, ?_, ?_⟩
  · exact losses_taken _ hu
  · exact finishAccount_finished a (LossesTaken.ready hu rfl)

/-! ## What losses rest on is kept -/

theorem LossReady.losses (h : LossReady s) (test : WindowNo → Bool) : LossReady (s.losses test) := LossesTaken.ready h rfl

/-- Records may go. -/
theorem LossReady.copySide (h : LossReady s) (hs : CopySide s t) (hsub : t.serving.Sublist s.serving) : LossReady t := by
  have hw : ∀ w, t.window w = s.window w := fun w => by unfold State.window; rw [hs]
  refine ⟨h.pairs.sublist (hsub.map _), ?_, ?_, ?_, ?_⟩
  · intro r hr; rw [hw]; exact h.current r (hsub.subset hr)
  · intro w; rw [hw, show t.catchUp = s.catchUp by rw [hs]]; exact h.catchingUp w
  · intro w hl; rw [hw]; exact h.listed w (by rw [show t.resync = s.resync by rw [hs]] at hl; exact hl)
  · intro ha
    obtain ⟨h1, h2⟩ := h.active (by rw [show t.station = s.station by rw [hs]] at ha; exact ha)
    refine ⟨?_, by rw [show t.catchUp = s.catchUp by rw [hs]]; exact h2⟩
    rw [h1] at hsub; exact List.sublist_nil.1 hsub

theorem LossReady.joinerDeparted (h : LossReady s) (station : StationNo) : LossReady (s.joinerDeparted station) :=
  h.copySide (joinerDeparted_side s station) (by
    rw [(joinerDeparted_ended station h.pairs).1.serving]; exact List.filter_sublist)

theorem LossReady.failAttempt (h : LossReady s) (kind : FailureKind) : LossReady (s.failAttempt kind) := by
  cases hc : s.catchUp with
  | none => rw [show s.failAttempt kind = s by unfold State.failAttempt; rw [hc]]; exact h
  | some c =>
    have hcw : (s.window c.window).currency = .catchingUp := (h.catchingUp _).2 ⟨c, hc, rfl⟩
    have hl : c.window ∉ s.resync := fun hl => by have := h.listed _ hl; rw [hcw] at this; cases this
    have ha : s.station = .active := by by_contra ha; have := (h.active ha).2; rw [hc] at this; cases this
    obtain ⟨c', hc', h1, h2, h3, h4, h5, h6, h7⟩ := failAttempt_failed kind hc (by rw [hcw]; decide) hl
    obtain rfl : c' = c := by rw [hc] at hc'; simpa using hc'.symm
    generalize s.failAttempt kind = t at h1 h2 h3 h4 h7
    have hser : t.serving = s.serving := by rw [h7]
    refine ⟨by rw [hser]; exact h.pairs, ?_, ?_, ?_, ?_⟩
    · intro r hr
      have := h.current r (hser ▸ hr)
      rw [h3 _ fun he => by rw [he, hcw] at this; cases this]; exact this
    · intro w; rw [h1]
      constructor
      · intro hw
        by_cases he : w = c'.window
        · subst he; rw [h2] at hw; dsimp only at hw; split at hw <;> cases hw
        · rw [h3 w he] at hw
          obtain ⟨x, hx, hxw⟩ := (h.catchingUp w).1 hw
          rw [hc] at hx; cases hx; exact absurd hxw.symm he
      · rintro ⟨x, hx, _⟩; cases hx
    · intro w hw
      rw [h4] at hw
      by_cases he : w = c'.window
      · subst he; rw [h2]; dsimp only
        split
        · rfl
        · rename_i hb; rw [if_neg hb] at hw; exact absurd hw hl
      · rw [h3 w he]; refine h.listed w ?_
        split at hw
        · simpa [he] using hw
        · exact hw
    · intro hna; rw [h7] at hna; exact absurd ha hna

theorem LossReady.depart (h : LossReady s) (station : StationNo) (next : RosterState) (cause : DepartCause) :
    LossReady (s.depart station next cause) := by
  unfold State.depart
  cases s.rosterOf station with
  | none => exact h
  | some r =>
    dsimp only
    split
    · refine LossReady.joinerDeparted ?_ station
      rw [donorDeparted_eq]
      have hu : LossReady ((s.updateRoster station fun r => { r with state := next }).event (subjectOf station.toNat)
          (.peerDeparted cause r.lastHeard)) := h.of_eq rfl rfl rfl rfl rfl
      split
      · exact hu.failAttempt _
      · exact hu
    · exact h.of_eq rfl rfl rfl rfl rfl

theorem LossReady.finishAccount (h : LossReady s) (a : Account) : LossReady (s.finishAccount a) := by
  have hd : LossReady (s.deliverAll a.held) := by rw [deliverAll_eq]; exact h.of_eq rfl rfl rfl rfl rfl
  unfold State.finishAccount; dsimp only
  split
  · exact hd.depart _ _ _
  · exact hd

theorem LossReady.endUnclosed (h : LossReady s) (a : Account) (ending : AccountEnding) :
    LossReady (s.endUnclosed a ending) := by
  have hu : LossReady (({ s with account := none } : State).slotLossEvent a.sender
    (.slotLoss .noClose a.slot (some ending) a.frames a.updates none a.corrupt)) := h.of_eq rfl rfl rfl rfl rfl
  exact (hu.losses _).finishAccount a

theorem LossReady.endAccount (h : LossReady s) (ending : AccountEnding) : LossReady (s.endAccount ending) := by
  unfold State.endAccount; split
  · exact h
  · exact h.endUnclosed _ _

theorem LossReady.coldYield (h : LossReady s) (ha : s.station = .active) (x : StationNo) (misaligned : Bool) :
    LossReady (s.coldYield x misaligned) := by
  have hy := coldYield_yielded x misaligned ha h
  generalize s.coldYield x misaligned = t at hy
  have hser : t.serving = [] := by
    rw [hy.records.serving]
    refine List.filter_eq_nil_iff.2 fun r hr => ?_
    simp [h.current r hr]
  have hcat : t.catchUp = s.catchUp := by rw [hy.frame]
  refine ⟨by rw [hser]; simp, by rw [hser]; simp, ?_, ?_, ?_⟩
  · intro w
    rw [hy.windows, hcat, ← h.catchingUp w]; dsimp only
    split
    · rename_i hc; rw [hc]; simp
    · exact Iff.rfl
  · intro w hw
    rw [hy.listed] at hw
    rw [hy.windows]; dsimp only
    simp only [List.mem_append, List.mem_filter, decide_eq_true_eq] at hw
    rcases hw with hw | ⟨_, hw⟩
    · rw [h.listed w hw]; rfl
    · rw [if_pos hw]
  · intro hna; rw [hy.frame] at hna; exact absurd ha hna

/-- The test of R129 does what AttemptTested says where no listed window is CURRENT. -/
theorem LossReady.tested (h : LossReady s) : AttemptTested s s.tryBegin :=
  tryBegin_tested fun w hw => by
    unfold State.nextTried at hw; split at hw
    · have := h.listed w (List.mem_of_find?_eq_some hw); rw [this]; decide
    · cases hw

/-! ## Coming off the line -/

theorem reports_fences (flushed : Bool) : ∀ (tags : List Half) (s : State), Reports s (s.fenceEvents flushed tags)
    (tags.map fun tag => ⟨some tag, s.clock.round, .fenceDone flushed⟩)
  | [], s => .refl s
  | tag :: tags, s => by
    have h := reports_fences flushed tags (s.event (some tag) (.fenceDone flushed))
    exact (event_reports s _ _).trans h

theorem fencesIn_events (l : List OutboundEntry) (round : Half) :
    (fencesIn l).map (fun tag => (⟨some tag, round, .fenceDone true⟩ : Event)) = l.filterMap fun e => match e with
      | .fence tag => some ⟨some tag, round, .fenceDone true⟩
      | .update _ _ _ _ _ => none
      | .notice _ _ _ => none := by
  unfold fencesIn; rw [List.map_filterMap]
  congr 1; funext e; cases e <;> rfl

/-- What flushing the Outbound Queue leaves. -/
theorem flushOutbound_eq (s : State) : s.flushOutbound =
    { s with outbound := [], events := s.flushOutbound.events, eventOverflow := s.flushOutbound.eventOverflow } := by
  have h : ∀ v : State, EventSide ({ s with outbound := [] } : State) v → EventSide ({ s with outbound := [] } : State)
      (v.event s.ownSubject (.outboundFlushed (updatesIn s.outbound) (noticesIn s.outbound) s.headInFlight)) :=
    fun v h => h.trans (event_side _ _ _)
  exact h _ (fenceEvents_side _ _ _)

theorem flushOutbound_reports (s : State) : Reports s s.flushOutbound
    ((s.outbound.filterMap fun e => match e with
        | .fence tag => some ⟨some tag, s.clock.round, .fenceDone true⟩
        | .update _ _ _ _ _ => none
        | .notice _ _ _ => none) ++
      [⟨s.ownSubject, s.clock.round, .outboundFlushed (updatesIn s.outbound) (noticesIn s.outbound) s.headInFlight⟩]) := by
  have h2 := (reports_fences true (fencesIn s.outbound) ({ s with outbound := [] } : State)).from_eq (u := s) rfl rfl
  rw [fencesIn_events] at h2
  refine h2.trans ?_
  have hs := fenceEvents_side ({ s with outbound := [] } : State) true (fencesIn s.outbound)
  unfold State.flushOutbound
  generalize ({ s with outbound := [] } : State).fenceEvents true (fencesIn s.outbound) = v at hs
  have h := event_reports v s.ownSubject
    (.outboundFlushed (updatesIn s.outbound) (noticesIn s.outbound) s.headInFlight)
  rwa [show v.clock.round = s.clock.round by rw [hs]] at h

/-- Everything coming off the line does to a state whose Outbound Queue has been flushed. -/
theorem clearLine_eq (v : State) (p : Profile) (next : StationState) (hp : v.profile = some p)
    (hn : next = .listening ∨ next = .standoff ∨ next = .configured) : v.clearLine p next = { v with
      leavePending := false, openFailures := 0, copyRead := none
      receiver := if next = .configured then .off else v.receiver
      clock := { v.clock with
        position := none, misalignedCount := 0, onTimeMark := false, misalignedMark := false, syncLoss := false
        quiet := if next = .listening then some p.quietLength else none
        join := if next = .listening then some p.joinLength else none
        standoff := if next = .standoff then some p.standoffLength else none
        foreignMark := if next = .listening then false else v.clock.foreignMark }
      roster :=
        if next = .listening then p.peers.map fun peer => { station := peer }
        else if next = .standoff then v.roster else []
      filler := if v.transmitter = none then none else v.filler.map fun f => { f with step := .abandoned }
      lastOpened := none, control := [], account := none, resync := [], catchUp := none, serving := [], turn := none } := by
  unfold State.clearLine State.abandonSlot State.rosterFor State.freshRoster
  rcases hn with rfl | rfl | rfl <;> cases v.transmitter <;> simp [hp, StationState.onLine, Clock.timersFor,
    Clock.leaveRunning, Clock.startListening, Clock.stopTimers, Profile.freshRoster]

theorem deliverAll_congr : ∀ (l : List Notice) {a b : State}, a.notices = b.notices →
    (a.deliverAll l).notices = (b.deliverAll l).notices
  | [], _, _, h => h
  | n :: l, a, b, h => by
    refine deliverAll_congr l (a := a.deliver n) (b := b.deliver n) ?_
    unfold State.deliver; split
    · exact h
    · simp only [h]

theorem comeOff_off (p : Profile) (next : StationState) (cause : StationCause)
    (hp : s.profile = some p) (hn : next = .listening ∨ next = .standoff ∨ next = .configured) :
    CameOff p next cause s (s.comeOff p next cause) := by
  let e := s.enter next cause s.heldNotStale
  have hf := flushOutbound_eq e
  have hr := flushOutbound_reports e
  have hh : e.headInFlight = s.headInFlight := rfl
  have he : Reports s e [⟨s.ownSubject, s.clock.round, .stationState s.station next cause
      (allWindows.filter fun w => (s.window w).isHeld && decide ((s.window w).currency ≠ .stale)).length⟩] := by
    have : s.heldNotStale = (allWindows.filter fun w => (s.window w).isHeld && decide ((s.window w).currency ≠ .stale)).length := by
      unfold State.heldNotStale; congr 2; funext w; congr 1; simp [bne, beq_eq_decide]
    rw [← this]; exact ⟨rfl, rfl⟩
  have hev := he.trans hr
  have hw : ∀ w, (e.flushOutbound.mapWindows WindowRecord.goStale).window w = WindowRecord.goStale (s.window w) := by
    intro w; rw [mapWindows_window]; congr 1; rw [hf]; rfl
  have hgo : s.comeOff p next cause =
      ((e.flushOutbound.mapWindows WindowRecord.goStale).clearLine p next).deliverAll s.heldNotices := rfl
  have hm : ∃ W, e.flushOutbound.mapWindows WindowRecord.goStale = { e.flushOutbound with windows := W } := ⟨_, rfl⟩
  obtain ⟨W, hW⟩ := hm
  rw [hW] at hw hgo
  generalize e.flushOutbound = f at hf hev hw hgo
  have hfe : f = { s with station := next, outbound := [], events := f.events, eventOverflow := f.eventOverflow } := by
    rw [hf]; rfl
  have hcl := clearLine_eq ({ f with windows := W } : State) p next (by rw [hfe]; exact hp) hn
  have hd : s.comeOff p next cause = { (({ f with windows := W } : State).clearLine p next) with
      notices := (s.deliverAll s.heldNotices).notices } := by
    rw [hgo, deliverAll_eq, deliverAll_congr (b := s) _ (by rw [hcl, hfe])]
  rw [hcl] at hd
  rw [hd]
  refine ⟨?_, ?_, ?_, ?_, rfl, ?_, ?_⟩
  · intro w
    have := hw w
    refine Eq.trans (b := ({ f with windows := W } : State).window w) rfl (this.trans ?_)
    unfold WindowRecord.goStale WindowRecord.isHeld
    by_cases h : (s.window w).holding = none
    · rw [if_pos h, if_neg (by rw [h]; decide)]
    · rw [if_neg h, if_pos (Option.isSome_iff_ne_none.2 h)]
  · rw [hfe]
  · rw [hfe]
  · rw [hfe]
  · refine hev.of_eq ?_ ?_ <;> rfl
  · rw [hfe]

end Sys2Proof.Laws
end

