-- ==== Sys2Proof/Laws/Line.lean ====
section
/-! SUPPORT. Laws/Line.lean: what taking a frame from the line, sending one, driving one to its end, the passing of time to an
instant, completing fences and choosing a serving record do, once for each. -/

namespace Sys2Proof.Laws

open Sys2Proof Sys2Proof.Machine

variable {s t u : State}

/-! ## Receptions -/

theorem lineActivity_eq {p : Profile} (hp : s.profile = some p) : s.lineActivity =
    { s with clock := { s.clock with quiet := s.clock.quiet.map fun _ => p.quietLength } } := by
  unfold State.lineActivity; rw [hp]

theorem isOpen_iff {b : FrameBody} : FrameBody.isOpen b = true ↔ kindIsOpen b := by
  unfold kindIsOpen; cases b <;> simp [FrameBody.isOpen]

theorem coldInstant_iff : s.coldInstant = true ↔ s.coldStarting := by
  unfold State.coldInstant State.coldStarting
  cases s.transmitter <;> cases s.filler <;> simp

/-- The report of a frame is taken where the receiver hears it, or where it is an OPEN at the instant of the cold start. -/
theorem hearsFrame_iff {b : FrameBody} : s.hearsFrame b = true ↔
    (s.station.onLine = true ∧ s.transmitter = none) ∨ (kindIsOpen b ∧ s.coldStarting) := by
  unfold State.hearsFrame State.hears
  rw [Bool.or_eq_true, Bool.and_eq_true, Bool.and_eq_true, isOpen_iff, coldInstant_iff, Option.isNone_iff_eq_none]

/-- A frame taken as the frame it is acts on the state after its report. -/
theorem receive_takes {p : Profile} {h : Header} {b : FrameBody} (act : State → State) (hp : s.profile = some p)
    (ht : s.takes h b) : s.receive h b act = act (s.heard p) := by
  obtain ⟨h1, h2, h3, h4⟩ := ht
  have hh : s.hearsFrame b = true := hearsFrame_iff.2 (h2.imp (fun h => ⟨h1, h⟩) id)
  unfold State.receive State.endDiscardRun
  rw [if_pos hh, if_neg h3]; dsimp only
  rw [if_neg (by rw [h4]; decide), lineActivity_eq (s := s.setReceiver .hunting) hp]; rfl

theorem receive_deaf {h : Header} {b : FrameBody} (act : State → State)
    (hd : s.station.onLine = false ∨ s.transmitter ≠ none) (hc : ¬ (kindIsOpen b ∧ s.coldStarting)) :
    s.receive h b act = s := by
  have hh : s.hearsFrame b ≠ true := fun hh => by
    rcases hearsFrame_iff.1 hh with ⟨h1, h2⟩ | h
    · rcases hd with hd | hd
      · rw [h1] at hd; exact Bool.noConfusion hd
      · exact hd h2
    · exact hc h
  unfold State.receive; rw [if_neg hh]

/-- A frame under its sender's account is counted and acted on. -/
theorem underAccount_accounted {h : Header} {a : Account} {p : Profile} (act : State → State) (ha : s.accounted h a) :
    (s.heard p).underAccount h act = act (s.counted p a) := by
  obtain ⟨_, h2, h3, h4⟩ := ha
  have h2' : (s.heard p).foreignSender h.sender = false := h2
  have h3' : (s.heard p).accountOf h.sender = some a := by
    show (match s.account with | none => none | some a => if a.sender = h.sender then some a else none) = _
    rw [h3]; simp [h4]
  unfold State.underAccount
  rw [if_neg (by rw [h2']; decide), h3']; dsimp only
  congr 1
  unfold State.countFrame State.counted State.heard; rw [h3]; rfl

theorem underAccount_dropped {h : Header} (act : State → State)
    (hd : s.foreignSender h.sender = true ∨ ∀ a, s.account = some a → a.sender ≠ h.sender) : s.underAccount h act = s := by
  unfold State.underAccount
  rcases hd with hd | hd
  · rw [if_pos hd]
  · split
    · rfl
    · have : s.accountOf h.sender = none := by
        unfold State.accountOf
        cases ha : s.account with
        | none => rfl
        | some a => simp [hd a ha]
      rw [this]

theorem applying_takes (act : State → State) (h : s.station.takesPart = true) : s.applying act = act s := by
  unfold State.applying; rw [if_pos h]

/-- The report of a reception keeps the station sound. -/
theorem heard_sound {p : Profile} (h : s.Sound) (hon : s.station.onLine = true) : (s.heard p).Sound where
  clock := by
    obtain ⟨h1, h2, h3, h4, h5⟩ := h.clock
    refine ⟨h1, ?_, h3, h4, ?_⟩
    · show (s.clock.quiet.map fun _ => p.quietLength).isSome = true ↔ _
      rw [Option.isSome_map]; exact h2
    · show Receiver.hunting = .off ↔ s.station.onLine = false
      rw [hon]; simp
  quiet := ⟨h.quiet.outbound, h.quiet.control, h.quiet.account, h.quiet.resync, h.quiet.catchUp, h.quiet.serving,
    h.quiet.turn, h.quiet.roster⟩
  profile := ⟨h.profile.initPass, h.profile.installed, h.profile.limit, h.profile.inFlight⟩
  windows := ⟨h.windows.held, h.windows.catchingUp, h.windows.listed, h.windows.listedOnce, h.windows.offLine,
    h.windows.attempts, h.windows.marks⟩
  serving := ⟨h.serving.pairs, h.serving.turn, h.serving.current⟩
  settled := h.settled

/-! ## The passing of time -/

/-- Time has passed to an instant of the round (log entry 4). -/
theorem passTo_movedTo (n : Nat) : s.passTo n = s.movedTo n := by
  unfold State.passTo State.movedTo State.elapse State.reach
  cases s.clock.position with
  | none => cases s.filler <;> simp
  | some at' => rfl

/-- No time passes up to the instant the clock stands at. -/
theorem passTo_here {n : Nat} (h : s.clock.position = some n) : s.passTo n = s := by
  unfold State.passTo State.elapse State.reach; rw [h]; simp only [Nat.sub_self, Nat.add_zero]
  have hf : s.filler.map (fun f => { f with count := f.count }) = s.filler := by cases s.filler <;> rfl
  have hc : s.clock = { s.clock with position := some n } := by rw [← h]
  rw [hf]
  have key : ∀ c, c = s.clock → ({ s with clock := c, filler := s.filler } : State) = s := by rintro c rfl; rfl
  exact key _ hc.symm

theorem addOnce_nodup {α : Type} [DecidableEq α] {x : α} {l : List α} (h : l.Nodup) : (addOnce x l).Nodup := by
  unfold addOnce; split
  · exact h
  · rename_i hx
    rw [List.nodup_append]
    refine ⟨h, by simp, ?_⟩
    rintro a ha b hb rfl
    exact hx (List.mem_singleton.1 hb ▸ ha)

theorem mem_addOnce {α : Type} [DecidableEq α] {x a : α} {l : List α} : a ∈ addOnce x l ↔ a = x ∨ a ∈ l := by
  unfold addOnce; split
  · rename_i h; exact ⟨.inr, fun h' => h'.elim (fun e => e ▸ h) id⟩
  · simp [or_comm]

/-- The order of the actions on a round end holds every action once, and is the one given where that holds every action
once. -/
theorem wholeOrder_whole (order : List RoundEndTask) : (wholeOrder order).Nodup ∧ (∀ t, t ∈ wholeOrder order) ∧
    (order.Nodup → (∀ t, t ∈ order) → wholeOrder order = order) := by
  have nodup : ∀ (xs l : List RoundEndTask), l.Nodup → (xs.foldl (fun l t => addOnce t l) l).Nodup := by
    intro xs; induction xs with
    | nil => intro l h; exact h
    | cons x xs ih => intro l h; exact ih _ (addOnce_nodup h)
  have mem : ∀ (xs l : List RoundEndTask) (x), x ∈ xs.foldl (fun l t => addOnce t l) l ↔ x ∈ xs ∨ x ∈ l := by
    intro xs; induction xs with
    | nil => simp
    | cons y xs ih => intro l x; rw [List.foldl_cons, ih, mem_addOnce, List.mem_cons, or_left_comm, or_assoc]
  have all : ∀ (xs l : List RoundEndTask), (l ++ xs).Nodup → xs.foldl (fun l t => addOnce t l) l = l ++ xs := by
    intro xs; induction xs with
    | nil => simp
    | cons y xs ih =>
      intro l h
      have hy : y ∉ l := fun hy => by rw [List.nodup_append] at h; exact h.2.2 y hy y (by simp) rfl
      rw [List.foldl_cons, addOnce, if_neg hy, ih _ (by simpa using h), List.append_assoc, List.singleton_append]
  have none : ∀ (xs l : List RoundEndTask), (∀ t, t ∈ l) → xs.foldl (fun l t => addOnce t l) l = l := by
    intro xs; induction xs with
    | nil => intros; rfl
    | cons y xs ih => intro l h; rw [List.foldl_cons, addOnce, if_pos (h y)]; exact ih l h
  refine ⟨nodup _ _ (nodup _ _ (by simp)), fun t => ?_, fun h1 h2 => ?_⟩
  · unfold wholeOrder; rw [mem]; left; cases t <;> simp
  · unfold wholeOrder; dsimp only; rw [all order [] (by simpa using h1), List.nil_append]; exact none _ _ h2

/-! ## Sending -/

/-- A frame taken by the transmitter with the slot left as given is what `sending` says. -/
theorem takeFrame_sending {p : Profile} (f g : Filling) (b : FrameBody) (hp : s.profile = some p) :
    (s.takeFrame p f b).setFilling g = s.sending p f b g := by
  unfold State.takeFrame State.sending State.setFilling
  by_cases hr : s.receiver = .receiving ∨ s.receiver = .discarding
  · rw [if_pos hr, if_pos hr]; dsimp only
    unfold State.corruptReport State.withCorrupt
    rw [lineActivity_eq hp]
    split <;> rfl
  · rw [if_neg hr, if_neg hr]

/-- Driving a frame to its end moves nothing of the clock but its position. -/
theorem driven_clock (t : Sending) : (s.driven t).clock = { s.clock with position := (s.driven t).clock.position } := by
  unfold State.driven
  cases s.filler with
  | none => rfl
  | some f => dsimp only; split <;> rfl

@[simp] theorem driven_clock_round (t : Sending) : (s.driven t).clock.round = s.clock.round := by rw [driven_clock]

theorem endFrame_driven (t : Sending) : s.endFrame t = s.driven t := by
  unfold State.endFrame State.driven State.driveOut State.liveSlot
  cases hf : s.filler with
  | none => rfl
  | some f =>
    by_cases ha : f.step = .abandoned
    · simp only [if_pos ha]
    · simp only [if_neg ha, State.elapse, hf, Option.map_some, Filling.untilEnd, frameLength, ← Nat.add_assoc]
      congr 3
      omega

theorem liveSlot_some {f : Filling} (h : s.inSlot f) : s.liveSlot = some f := by
  unfold State.liveSlot; rw [h.1]; dsimp only; rw [if_neg h.2]

theorem liveSlot_none (h : ∀ f, s.filler = some f → f.step = .abandoned) : s.liveSlot = none := by
  unfold State.liveSlot
  cases hf : s.filler with
  | none => rfl
  | some f => simp [h f hf]

theorem driven_filler {f : Filling} (t : Sending) (h : s.inSlot f) :
    (s.driven t).filler = some { f with count := max f.count (t.start + 12 + bodyLength t.frame.body) } := by
  unfold State.driven; rw [h.1]; dsimp only; rw [if_neg h.2]

theorem offerClose_sending {p : Profile} (f : Filling) (hp : s.profile = some p) :
    s.offerClose p f = s.sending p f (closing f) { f with step := .closing } := takeFrame_sending _ _ _ hp

theorem sendFrame_sending {p : Profile} (f : Filling) (b : FrameBody) (hp : s.profile = some p) :
    s.sendFrame p f b = s.sending p f b (f.tally b) := takeFrame_sending _ _ _ hp

theorem has_ofTest (test : WindowNo → Bool) (w : WindowNo) : WindowSet.has (WindowSet.ofTest test) w = test w := by
  have key : ∀ (l : List WindowNo) (set : WindowSet), WindowSet.has
      (l.foldl (fun set w => if test w then WindowSet.add set w else set) set) w =
        (WindowSet.has set w || (decide (w ∈ l) && test w)) := by
    intro l
    induction l with
    | nil => intro set; simp
    | cons x l ih =>
      intro set
      rw [List.foldl_cons, ih]
      have hadd : WindowSet.has (WindowSet.add set x) w = (WindowSet.has set w || decide (w = x)) := by
        unfold WindowSet.has WindowSet.add
        rw [BitVec.getLsbD_or]; congr 1
        rw [BitVec.getLsbD_ofNat, Nat.testBit_two_pow]
        have hw := w.isLt
        by_cases hx : w = x
        · subst hx; simp [hw]
        · have : ¬ x.val = w.val := fun h => hx (Fin.ext h.symm)
          simp [this, hx]
      by_cases hx : w = x
      · subst hx
        cases ht : test w with
        | true => simp [hadd]
        | false => simp
      · cases ht : test x with
        | true => simp [hadd, hx]
        | false => simp [hx]
  have := key allWindows 0
  unfold WindowSet.ofTest
  rw [this]
  have h0 : WindowSet.has 0 w = false := by simp [WindowSet.has]
  rw [h0]; simp [allWindows]

theorem openBody_opening (s : State) (p : Profile) (f : Filling) : s.isOpening p f (s.openBody p f) := by
  refine ⟨_, rfl, fun w => ?_⟩
  by_cases hc : s.station = .coldStart
  · rw [if_pos hc, if_pos hc]; unfold State.heldSet; rw [has_ofTest]
    exact Option.isSome_iff_ne_none
  · rw [if_neg hc, if_neg hc]; unfold State.currentSet; rw [has_ofTest]
    simp

theorem openSlot_opens {p : Profile} (k : Nat) (round : Half) (count : Nat) (hp : s.profile = some p) :
    s.OpensSlot (s.openSlot p k round count) p k round count := by
  unfold State.OpensSlot State.openSlot State.offerOpen
  dsimp only
  by_cases ht : s.transmitter = none
  · rw [if_pos ht, if_neg (by rw [ht]; decide)]
    exact ⟨_, openBody_opening ({ s with lastOpened := some (round, k) } : State) p _, takeFrame_sending _ _ _ hp⟩
  · rw [if_neg ht, if_pos (Option.isSome_iff_ne_none.2 ht)]; rfl

/-! ## Fences -/

theorem fences_split : ∀ l : List OutboundEntry,
    l = (fencesAtHead l).map OutboundEntry.fence ++ dropFences l ∧ ∀ tag, (dropFences l).head? ≠ some (.fence tag)
  | [] => ⟨rfl, by intro; simp [dropFences]⟩
  | .fence tag :: l => by
    obtain ⟨h1, h2⟩ := fences_split l
    exact ⟨by simp only [fencesAtHead, dropFences, List.map_cons, List.cons_append]; rw [← h1], h2⟩
  | .update _ _ _ _ _ :: l => ⟨rfl, by intro; simp [dropFences]⟩
  | .notice _ _ _ :: l => ⟨rfl, by intro; simp [dropFences]⟩

theorem completeFences_done : FencesDone s s.completeFences := by
  obtain ⟨h1, h2⟩ := fences_split s.outbound
  have hs := fenceEvents_side ({ s with outbound := dropFences s.outbound } : State) false (fencesAtHead s.outbound)
  have hr := (reports_fences false (fencesAtHead s.outbound) ({ s with outbound := dropFences s.outbound } : State)).from_eq
    (u := s) rfl rfl
  refine ⟨fencesAtHead s.outbound, dropFences s.outbound, h1, h2, hr, ?_⟩
  unfold State.completeFences
  generalize ({ s with outbound := dropFences s.outbound } : State).fenceEvents false (fencesAtHead s.outbound) = v at hs
  rw [hs]

/-! ## The turn -/

/-- The record chosen is the first SERVING one in turn order. -/
theorem chooseServing_order {order : List ServingRecord} (hn : (s.serving.map ServingRecord.pair).Nodup)
    (ho : s.TurnOrder order) : s.chooseServing = order.find? fun r => decide (r.phase ≠ .offered) := by
  have hf : (fun r : ServingRecord => decide (r.phase ≠ .offered)) = ServingRecord.isServing := by
    funext r; unfold ServingRecord.isServing; cases r.phase <;> simp
  rw [hf]
  unfold State.chooseServing
  rcases ho with ⟨h1, h2⟩ | ⟨before, r, after, h1, h2, h3⟩
  · rw [h1, h2]
  · rw [h2]; dsimp only
    have hb : ∀ q ∈ before, q.pair ≠ r.pair := by
      rw [h1] at hn; simp only [List.map_append, List.map_cons, List.nodup_append] at hn
      exact fun q hq => hn.2.2 _ (List.mem_map_of_mem hq) _ (by simp)
    have hi : (s.serving.findIdx fun q => decide (q.pair = r.pair)) = before.length := by
      rw [h1, List.findIdx_append]
      have : (before.findIdx fun q => decide (q.pair = r.pair)) = before.length := by
        rw [List.findIdx_eq_length]; simpa using hb
      rw [if_neg (by rw [this]; exact lt_irrefl _)]
      simp [List.findIdx_cons]
    rw [hi, h1, h3]
    congr 1
    have h4 : (before ++ r :: after).drop (before.length + 1) = after := by
      rw [← List.drop_drop]; simp
    have h5 : (before ++ r :: after).take (before.length + 1) = before ++ [r] := by
      rw [List.take_append]; simp
    rw [h4, h5, List.append_assoc]

end Sys2Proof.Laws
end

