-- ==== Sys2Proof/Laws/Memory.lean ====
section
/-! SUPPORT. Laws/Memory.lean: reading after writing, and the canonical form: every operation on a memory keeps it, and two
memories in it that read alike are equal. -/

namespace Sys2Proof.Laws

open Sys2Proof.Machine

/-! ## The canonical form -/

theorem wfFrom_nil (lo : Nat) : Memory.wfFrom lo [] = true := rfl

theorem wfFrom_cons (lo b : Nat) (v : Byte) (m : Memory) :
    Memory.wfFrom lo ((b, v) :: m) = true ↔ lo ≤ b ∧ v ≠ 0 ∧ Memory.wfFrom (b + 1) m = true := by
  simp [Memory.wfFrom, and_assoc]

/-- A lower bound may be lowered. -/
theorem wfFrom_mono {lo hi : Nat} (h : lo ≤ hi) : ∀ {m : Memory}, Memory.wfFrom hi m = true → Memory.wfFrom lo m = true
  | [], _ => rfl
  | (b, v) :: m, hm => by
    rw [wfFrom_cons] at hm ⊢
    exact ⟨h.trans hm.1, hm.2⟩

/-- An address below the bound is not listed. -/
theorem read_below : ∀ {m : Memory} {lo a : Nat}, Memory.wfFrom lo m = true → a < lo → m.read a = 0
  | [], _, _, _, _ => rfl
  | (b, v) :: m, lo, a, hm, ha => by
    rw [wfFrom_cons] at hm
    have hb : a ≠ b := by omega
    simp only [Memory.read, hb, if_false]
    exact read_below hm.2.2 (by omega)

/-- A write keeps the canonical form. -/
theorem wfFrom_write : ∀ {m : Memory} {lo a : Nat} (v : Byte), Memory.wfFrom lo m = true → lo ≤ a →
    Memory.wfFrom lo (m.write a v) = true
  | [], lo, a, v, _, ha => by
    rw [Memory.write]
    split
    · rfl
    · rename_i hv
      exact (wfFrom_cons ..).2 ⟨ha, hv, rfl⟩
  | (b, w) :: m, lo, a, v, hm, ha => by
    rw [wfFrom_cons] at hm
    obtain ⟨h1, h2, h3⟩ := hm
    simp only [Memory.write]
    split
    · split
      · exact (wfFrom_cons ..).2 ⟨h1, h2, h3⟩
      · rename_i hlt hv
        exact (wfFrom_cons ..).2 ⟨ha, hv, (wfFrom_cons ..).2 ⟨by omega, h2, h3⟩⟩
    · split
      · split
        · exact wfFrom_mono (by omega) h3
        · rename_i hv
          subst_vars
          exact (wfFrom_cons ..).2 ⟨h1, hv, h3⟩
      · exact (wfFrom_cons ..).2 ⟨h1, h2, wfFrom_write v h3 (by omega)⟩

theorem wf_write {m : Memory} (a : Nat) (v : Byte) (h : m.wf = true) : (m.write a v).wf = true :=
  wfFrom_write v h (Nat.zero_le a)

theorem wf_writeWord {m : Memory} (a : Nat) (w : Word) (h : m.wf = true) : (m.writeWord a w).wf = true :=
  wf_write _ _ (wf_write _ _ (wf_write _ _ (wf_write _ _ h)))

theorem wf_writeWords : ∀ {m : Memory} (a : Nat) (ws : List Word), m.wf = true → (m.writeWords a ws).wf = true
  | _, _, [], h => h
  | _, a, w :: ws, h => wf_writeWords (a + 4) ws (wf_writeWord a w h)

theorem wf_writeLanes {m : Memory} (a : Nat) (l : Lanes) (v : Word) (h : m.wf = true) :
    (m.writeLanes a l v).wf = true := by
  simp only [Memory.writeLanes, List.foldl]
  repeat' first | exact h | apply wf_write | split

/-- Cutting a memory down to the addresses that pass a test keeps the canonical form. -/
theorem wfFrom_filter (p : Host.Cell → Bool) : ∀ {m : Memory} {lo : Nat}, Memory.wfFrom lo m = true →
    Memory.wfFrom lo (m.filter p) = true
  | [], _, _ => rfl
  | (b, v) :: m, lo, h => by
    rw [wfFrom_cons] at h
    rw [List.filter_cons]
    split
    · exact (wfFrom_cons ..).2 ⟨h.1, h.2.1, wfFrom_filter p h.2.2⟩
    · exact wfFrom_mono (by omega) (wfFrom_filter p h.2.2)

theorem wf_stagingArea {m : Memory} (h : m.wf = true) : (stagingArea m).wf = true := wfFrom_filter _ h

/-! ## Reading after writing -/

/-- A byte written is read back, and every other byte reads as before. -/
theorem read_writeFrom : ∀ {m : Memory} {lo : Nat} (a : Nat) (v : Byte) (b : Nat), Memory.wfFrom lo m = true →
    (m.write a v).read b = if b = a then v else m.read b
  | [], _, a, v, b, _ => by
    rw [Memory.write]
    split <;> by_cases hb : b = a <;> simp_all [Memory.read]
  | (c, w) :: m, lo, a, v, b, h => by
    rw [wfFrom_cons] at h
    have ih := read_writeFrom a v b h.2.2
    have below := @read_below m (c + 1) a h.2.2
    simp only [Memory.write]
    split
    · have hac : a ≠ c := by omega
      have := below (by omega)
      by_cases hv : v = 0 <;> by_cases hb : b = a <;> simp_all [Memory.read]
    · split
      · subst_vars
        have := below (by omega)
        by_cases hv : v = 0 <;> by_cases hb : b = a <;> simp_all [Memory.read]
      · by_cases hb : b = c
        · have : b ≠ a := by omega
          simp_all [Memory.read]
        · simp [Memory.read, hb, ih]

theorem read_write {m : Memory} (a : Nat) (v : Byte) (b : Nat) (h : m.wf = true) :
    (m.write a v).read b = if b = a then v else m.read b := read_writeFrom a v b h

/-- A word written is read back byte by byte. -/
theorem read_writeWord {m : Memory} (a : Nat) (w : Word) (b : Nat) (h : m.wf = true) :
    (m.writeWord a w).read b = if a ≤ b ∧ b < a + 4 then wordByte w (b - a) else m.read b := by
  have h1 := wf_write a (wordByte w 0) h
  have h2 := wf_write (a + 1) (wordByte w 1) h1
  have h3 := wf_write (a + 2) (wordByte w 2) h2
  simp only [Memory.writeWord, read_write _ _ _ h3, read_write _ _ _ h2, read_write _ _ _ h1, read_write _ _ _ h]
  by_cases hb : a ≤ b ∧ b < a + 4
  · obtain ⟨i, rfl⟩ := Nat.exists_eq_add_of_le hb.1
    have hi : i < 4 := by omega
    interval_cases i <;> simp
  · have : b ≠ a ∧ b ≠ a + 1 ∧ b ≠ a + 2 ∧ b ≠ a + 3 := by omega
    simp [this, hb]

/-- Words written one after the other are read back byte by byte; every other byte reads as before. -/
theorem read_writeWords : ∀ {m : Memory} (a : Nat) (ws : List Word) (b : Nat), m.wf = true →
    (m.writeWords a ws).read b =
      if a ≤ b ∧ b < a + 4 * ws.length then wordByte (ws.getD ((b - a) / 4) 0) ((b - a) % 4) else m.read b
  | m, a, [], b, h => by
    have : ¬ (a ≤ b ∧ b < a + 4 * ([] : List Word).length) := by simp
    simp [Memory.writeWords]
  | m, a, w :: ws, b, h => by
    rw [Memory.writeWords, read_writeWords (a + 4) ws b (wf_writeWord a w h), read_writeWord a w b h]
    simp only [List.length_cons]
    by_cases h0 : a ≤ b ∧ b < a + 4
    · have e1 : ¬ (a + 4 ≤ b ∧ b < a + 4 + 4 * ws.length) := by omega
      have e2 : a ≤ b ∧ b < a + 4 * (ws.length + 1) := by omega
      have e3 : (b - a) / 4 = 0 := by omega
      have e4 : (b - a) % 4 = b - a := by omega
      rw [if_neg e1, if_pos h0, if_pos e2, e3, e4]
      rfl
    · by_cases h1 : a + 4 ≤ b ∧ b < a + 4 + 4 * ws.length
      · have e2 : a ≤ b ∧ b < a + 4 * (ws.length + 1) := by omega
        have e3 : (b - a) / 4 = (b - (a + 4)) / 4 + 1 := by omega
        have e4 : (b - a) % 4 = (b - (a + 4)) % 4 := by omega
        rw [if_pos h1, if_pos e2, e3, e4]
        rfl
      · have e2 : ¬ (a ≤ b ∧ b < a + 4 * (ws.length + 1)) := by omega
        rw [if_neg h1, if_neg h0, if_neg e2]

/-- A word is the word of its four bytes. -/
theorem wordOf_wordByte (w : Word) : wordOf (wordByte w 0) (wordByte w 1) (wordByte w 2) (wordByte w 3) = w := by
  apply BitVec.eq_of_getLsbD_eq
  intro i hi
  simp only [wordOf, wordByte, BitVec.getLsbD_append, BitVec.getLsbD_setWidth, BitVec.getLsbD_ushiftRight]
  interval_cases i <;> simp

/-- A word written is read back. -/
theorem readWord_writeWord {m : Memory} (a : Nat) (w : Word) (h : m.wf = true) : (m.writeWord a w).readWord a = w := by
  rw [Memory.readWord, read_writeWord _ _ _ h, read_writeWord _ _ _ h, read_writeWord _ _ _ h, read_writeWord _ _ _ h]
  simpa using wordOf_wordByte w

/-- Words that lie outside what is written read as before. -/
theorem readWord_writeWords_other {m : Memory} (a : Nat) (ws : List Word) (b : Nat) (h : m.wf = true)
    (hb : b + 4 ≤ a ∨ a + 4 * ws.length ≤ b) : (m.writeWords a ws).readWord b = m.readWord b := by
  simp only [Memory.readWord, read_writeWords _ _ _ h]
  congr 1 <;> rw [if_neg (by omega)]

/-- Word i of the words written is read back. -/
theorem readWord_writeWords {m : Memory} (a : Nat) (ws : List Word) (i : Nat) (h : m.wf = true) (hi : i < ws.length) :
    (m.writeWords a ws).readWord (a + 4 * i) = ws.getD i 0 := by
  have e : ∀ j, j < 4 → (m.writeWords a ws).read (a + 4 * i + j) = wordByte (ws.getD i 0) j := by
    intro j hj
    rw [read_writeWords _ _ _ h, if_pos (by omega)]
    congr 2 <;> omega
  have e0 := e 0 (by omega)
  rw [Nat.add_zero] at e0
  rw [Memory.readWord, e0, e 1 (by omega), e 2 (by omega), e 3 (by omega)]
  exact wordOf_wordByte _

/-! ## Equal memories are equal data -/

/-- Two memories in canonical form that read alike at every address are the same list. -/
theorem wfFrom_ext : ∀ {m n : Memory} {lo : Nat}, Memory.wfFrom lo m = true → Memory.wfFrom lo n = true →
    (∀ a, m.read a = n.read a) → m = n
  | [], [], _, _, _, _ => rfl
  | [], (b, v) :: n, lo, _, hn, h => by
    rw [wfFrom_cons] at hn
    exact absurd (h b) (by simpa [Memory.read] using hn.2.1.symm)
  | (b, v) :: m, [], lo, hm, _, h => by
    rw [wfFrom_cons] at hm
    exact absurd (h b) (by simpa [Memory.read] using hm.2.1)
  | (b, v) :: m, (c, w) :: n, lo, hm, hn, h => by
    rw [wfFrom_cons] at hm hn
    have hbc : b = c := by
      rcases Nat.lt_trichotomy b c with hlt | heq | hgt
      · have := h b
        have hne : b ≠ c := by omega
        simp only [Memory.read, hne, if_true, if_false] at this
        exact absurd (this.trans (read_below hn.2.2 (by omega))) hm.2.1
      · exact heq
      · have := h c
        have hne : c ≠ b := by omega
        simp only [Memory.read, hne, if_true, if_false] at this
        exact absurd (this.symm.trans (read_below hm.2.2 (by omega))) hn.2.1
    subst hbc
    have hv : v = w := by simpa [Memory.read] using h b
    subst hv
    have : m = n := wfFrom_ext hm.2.2 hn.2.2 fun a => by
      by_cases ha : a = b
      · subst ha
        rw [read_below hm.2.2 (by omega), read_below hn.2.2 (by omega)]
      · simpa [Memory.read, ha] using h a
    rw [this]

theorem wf_ext {m n : Memory} (hm : m.wf = true) (hn : n.wf = true) (h : ∀ a, m.read a = n.read a) : m = n :=
  wfFrom_ext hm hn h

/-- The reset memories are in canonical form. -/
theorem reset_wf : State.reset.store.wf = true ∧ State.reset.region.wf = true := ⟨rfl, rfl⟩

/-! ## The store and the command record -/

theorem wf_writeStore {s : State} (block word : Nat) (ws : List Word) (h : s.store.wf = true) :
    (s.writeStore block word ws).store.wf = true := wf_writeWords _ _ h

theorem wf_fillCommand {s : State} (code : Nat) (ops : List Word) (tag : Word) (h : s.region.wf = true) :
    (s.fillCommand code ops tag).region.wf = true := wf_writeWord _ _ (wf_writeWords _ _ (wf_writeWord _ _ h))

/-- The command record holds the code that was filled in. -/
theorem fillCommand_commandCode {s : State} (code : Nat) (ops : List Word) (tag : Word) (h : s.region.wf = true) : (s.fillCommand code ops tag).commandCode = BitVec.ofNat 32 code := by
  have h1 := wf_writeWord commandCodeAt (BitVec.ofNat 32 code) h
  have h2 := wf_writeWords operandAt ops h1
  have tagOut := readWord_writeWords_other commandTagAt [tag] commandCodeAt h2 (.inl (by decide))
  have opsOut := readWord_writeWords_other operandAt ops commandCodeAt h1 (.inl (by decide))
  simp only [Memory.writeWords] at tagOut
  simp only [State.fillCommand, State.commandCode, tagOut, opsOut, readWord_writeWord _ _ h]

/-- The command record holds the tag that was filled in. -/
theorem fillCommand_commandTag {s : State} (code : Nat) (ops : List Word) (tag : Word) (h : s.region.wf = true) :
    (s.fillCommand code ops tag).commandTag = tag := by
  have h2 := wf_writeWords operandAt ops (wf_writeWord commandCodeAt (BitVec.ofNat 32 code) h)
  simp only [State.fillCommand, State.commandTag, readWord_writeWord _ _ h2]

/-- Operand word i of the command record is the operand that was filled in, for at most six operands. -/
theorem fillCommand_operand {s : State} (code : Nat) (ops : List Word) (tag : Word) (i : Nat) (h : s.region.wf = true)
    (hops : ops.length ≤ 6) (hi : i < ops.length) : (s.fillCommand code ops tag).operand i = ops.getD i 0 := by
  have h1 := wf_writeWord commandCodeAt (BitVec.ofNat 32 code) h
  have h2 := wf_writeWords operandAt ops h1
  have tagOut := readWord_writeWords_other commandTagAt [tag] (operandAt + 4 * i) h2
    (.inl (by simp only [operandAt, commandTagAt]; omega))
  simp only [Memory.writeWords] at tagOut
  simp only [State.fillCommand, State.operand, tagOut, readWord_writeWords _ _ _ h1 hi]

end Sys2Proof.Laws
end

