-- ==== Sys2Proof/Tests/Slice0.lean ====
section
/-! SUPPORT. Tests/Slice0.lean: the model's own tests. Refused ill-formed commands; values and sequences worked out in the
manual; and for every statement with hypotheses a state and operands that meet them, clause by clause. -/

namespace Sys2Proof.Tests

open Sys2Proof.Machine

set_option Elab.async false

/-! ## A line of two stations: station 9 owns slot 1, its peer 5 owns slot 0 -/

/-- Round length 544: settle 16, two slots of 256, drain 16. -/
def line : Profile where
  station := 9
  slots := 2
  slotLength := 256
  settle := 16
  drain := 16
  grace := 32
  copyShare := 2
  catchUpWait := 2
  copyStall := 2
  attemptLimit := 2
  silenceLimit := 1
  allotment := [5, 9]
  digest := 0x1234

/-- Window 0 is held WRITE and whole, window 1 READ and the last two blocks of eight. -/
def table (c0 c1 : Currency) : Vector WindowRecord 32 :=
  ((Vector.replicate 32 {}).set 0
    { globalLength := 4, holding := some ⟨.write, 4, .up, 0⟩, currency := c0 }).set 1
    { globalLength := 8, holding := some ⟨.read, 2, .down, 4⟩, currency := c1 }

def unconfigured : State := { State.reset with station := .unconfigured, initPass := none }

def configured : State :=
  { unconfigured with station := .configured, profile := some line, windows := table .stale .stale }

def listening : State :=
  { configured with
    station := .listening, receiver := .hunting, roster := [{ station := 5 }]
    clock := { quiet := some 2848, join := some 4352 } }

def standoff : State := { listening with station := .standoff, clock := { standoff := some 5440 } }

def coldStart : State := { listening with station := .coldStart, clock := { position := some 272 } }

/-- ACTIVE in round 7, the peer PRESENT and advertising both windows. -/
def active : State :=
  { listening with
    station := .active, clock := { position := some 100, round := 7 }, windows := table .current .current
    roster := [{ station := 5, state := .present, lastHeard := some 7, current := 3 }] }

def leaving : State := { active with station := .leaving }

/-- As `active`, window 0 being copied from the peer. -/
def copying : State :=
  { active with
    windows := table .catchingUp .current
    catchUp := some { window := 0, attempt := 1, phase := .copying 5 1 [0] } }

def requesting : State :=
  { copying with catchUp := some { window := 0, attempt := 1, phase := .requested 1 } }

/-- As `active`, window 0 listed and not advertised. -/
def waiting : State :=
  { active with windows := table .stale .current, resync := [0]
                roster := [{ station := 5, state := .present, lastHeard := some 7 }] }

/-- As `active`, serving window 0 to the peer. -/
def serving : State :=
  { active with serving := [{ joiner := 5, window := 0, first := 0, last := 1, phase := .serving 1, beginRound := 6 }] }

/-- The test that a state meets Sound. -/
def soundTest (s : State) : Bool :=
  decide (s.clock.position.isSome = true ↔ s.station.clockMode = .running) &&
  decide (s.clock.quiet.isSome = true ↔ s.station = .listening) &&
  decide (s.clock.join.isSome = true ↔ s.station = .listening) &&
  decide (s.clock.standoff.isSome = true ↔ s.station = .standoff) &&
  decide (s.receiver = .off ↔ s.station.onLine = false) &&
  decide (s.station.takesPart = false → s.outbound = []) && decide (s.station.takesPart = false → s.control = []) &&
  decide (s.station.takesPart = false → s.account = none) && decide (s.station ≠ .active → s.resync = []) &&
  decide (s.station ≠ .active → s.catchUp = none) && decide (s.station ≠ .active → s.serving = []) &&
  decide (s.station ≠ .active → s.turn = none) && decide (s.station.clockMode = .stopped → s.roster = []) &&
  decide (s.initPass ≠ none ↔ s.station = .initialising) &&
  decide (s.profile = none ↔ s.station = .initialising ∨ s.station = .unconfigured) &&
  (match s.profile with | none => true | some p => decide (1 ≤ p.attemptLimit)) &&
  decide (s.inFlight ≠ none → s.station = .unconfigured ∨ s.station = .configured) &&
  decide (∀ w, (s.window w).holding = none ↔ (s.window w).currency = .unheld) &&
  decide (∀ w, (s.window w).currency = .catchingUp ↔ s.catchUp.map CatchUp.window = some w) &&
  decide (s.station = .active → ∀ w, w ∈ s.resync ↔ (s.window w).currency = .stale) && decide s.resync.Nodup &&
  decide (s.station.takesPart = false → ∀ w,
    (s.window w).currency = .unheld ∨ ((s.window w).currency = .stale ∧ (s.window w).attempts = 0)) &&
  allWindows.all (fun w => match (s.window w).currency with
    | .unheld | .current => decide ((s.window w).attempts = 0)
    | .stale | .catchingUp => decide ((s.window w).attempts < s.attemptLimit)
    | .stranded => decide ((s.window w).attempts = s.attemptLimit)) &&
  allWindows.all (fun w => match (s.window w).coldMark with
    | none => true
    | some n => decide (s.station = .active ∧ (s.window w).currency = .current ∧ 1 ≤ n ∧ n ≤ 4)) &&
  decide (s.serving.map ServingRecord.pair).Nodup &&
  (match s.turn with | none => true | some pair => s.serving.any fun r => decide (r.pair = pair)) &&
  s.serving.all (fun r => decide ((s.window r.window).currency = .current)) &&
  decide (s.nextTried = none)

theorem sound_of_test {s : State} (h : soundTest s = true) : s.Sound := by
  simp only [soundTest, Bool.and_eq_true, decide_eq_true_eq, List.all_eq_true] at h
  obtain ⟨⟨⟨⟨⟨⟨⟨⟨⟨⟨⟨⟨⟨⟨⟨⟨⟨⟨⟨⟨⟨⟨⟨⟨⟨⟨⟨a1, a2⟩, a3⟩, a4⟩, a5⟩, b1⟩, b2⟩, b3⟩, b4⟩, b5⟩, b6⟩, b7⟩, b8⟩, c1⟩, c2⟩, c3⟩, c4⟩, d1⟩, d2⟩, d3⟩,
    d4⟩, d5⟩, d6⟩, d7⟩, e1⟩, e2⟩, e3⟩, f1⟩ := h
  refine ⟨⟨a1, a2, a3, a4, a5⟩, ⟨b1, b2, b3, b4, b5, b6, b7, b8⟩, ⟨c1, c2, ?_, c4⟩, ⟨d1, ?_, d3, d4, d5, ?_, ?_⟩,
    ⟨e1, ?_, e3⟩, f1⟩
  · intro p hp; rw [hp] at c3; simpa using c3
  · intro w; rw [d2 w, Option.map_eq_some_iff]
  · intro w; have := d6 w (List.mem_finRange w)
    cases hc : (s.window w).currency <;> simp only [hc, decide_eq_true_eq] at this ⊢ <;> exact this
  · intro w n hn; have := d7 w (List.mem_finRange w); rw [hn] at this; simpa using this
  · intro pair hp; rw [hp] at e2; simpa using e2


/-! ## Ill-formed commands are refused (WellFormed) -/

/-- A header of station 5's slot 0 in round 7. -/
def header : Header := ⟨5, 0, 7⟩

/-- A header whose sender is above 63 (R42). -/
def badHeader : Header := ⟨64, 0, 7⟩

/-- The five actions on a round end in the order of the table of R62. -/
def order : List RoundEndTask := [.misalignedTest, .silence, .coldMarks, .resyncTimers, .offerLapse]

theorem test_wellFormed_sender :
    [Instr.openReceived badHeader 0 false false 0 0 order, .closeReceived badHeader 0 0 0,
      .updReceived badHeader 0 0 0 [0], .ntcReceived badHeader 5 1 0, .creqReceived badHeader 0 1 0 0,
      .cbegReceived badHeader 9 0 0 0, .cblkReceived badHeader 9 0 0 (List.replicate 16 0),
      .cendReceived badHeader 9 0 1, .ccanReceived badHeader 9 0, .cabtReceived badHeader 9 0].all
        (fun i => !i.wellFormed) = true := by decide

theorem test_wellFormed_position : (Instr.openReceived header 0 false false 0 67584 order).wellFormed = false ∧
    (Instr.openReceived header 0 false false 0 67583 order).wellFormed = true := by decide

theorem test_wellFormed_order :
    (Instr.openReceived header 0 false false 0 0 [.silence, .silence, .coldMarks, .resyncTimers, .offerLapse]).wellFormed =
      false := by decide

theorem test_wellFormed_words :
    [Instr.updReceived header 0 0 0 [], .updReceived header 0 0 0 (List.replicate 17 0),
      .cblkReceived header 9 0 0 (List.replicate 15 0)].all (fun i => !i.wellFormed) = true := by decide

theorem test_wellFormed_slot :
    [Instr.slotStart 32, .slotEnd 32, .openGraceExpiry 32, .peerSilent 64, .badCommandCode 16 0].all
      (fun i => !i.wellFormed) = true := by decide

/-! ## Values the manual gives -/

/-- The check value of R57: the nine bytes 49 to 57 give 10673. -/
theorem test_digest_check_value : (crc16 [49, 50, 51, 52, 53, 54, 55, 56, 57]).toNat = 10673 := by decide +kernel

/-- R172 by hand: an NTC of station 3 in slot 2 of round 258, target 255, level 2, tag 900 (0384h). -/
theorem test_notice_bytes : Frame.covered ⟨⟨3, 2, 258⟩, .ntc 255 2 900⟩ =
    [0x04, 0x03, 0x02, 0x04, 0x01, 0x02, 0xFF, 0x02, 0x03, 0x84] := by decide +kernel

/-- R172 by hand: an UPD of two words for window 4, block 10, first word 0. -/
theorem test_update_bytes : Frame.covered ⟨⟨3, 2, 258⟩, .upd 4 0 10 [0x01020304, 5]⟩ =
    [0x03, 0x03, 0x02, 12, 0x01, 0x02, 4, 0, 0, 10, 1, 2, 3, 4, 0, 0, 0, 5] := by decide +kernel

/-- R51: a reception whose check bytes are those of its header and body passes, and one flipped bit fails it. -/
theorem test_frame_check :
    let bytes := Frame.covered ⟨⟨3, 2, 258⟩, .ntc 255 2 900⟩
    passesCheck (bytes ++ bytesOfWord (frameCheck bytes)) = true ∧
      passesCheck (0x05 :: bytes.tail ++ bytesOfWord (frameCheck bytes)) = false := by decide +kernel

/-- R52: a byte that is no lead starts a discard run, which the lead's two bytes end. -/
theorem test_receiver_bytes :
    hear (.hunting true false) (.driven 0x11) 0 order = (.discarding false, [.discardRunStart]) ∧
      hear (.discarding false) (.driven 0x5C) 0 order = (.discarding true, []) ∧
      hear (.discarding true) (.driven 0xE3) 0 order = (.receiving [], [.leadFound]) := by decide

/-- R52: the byte at which a framing error is found may itself begin the lead. -/
theorem test_framing_error_begins_a_lead :
    hear (.receiving [1, 5, 0, 3, 0]) (.driven 0x5C) 0 order = (.discarding true, [.discardRunStart]) := by decide

/-- R55, R56: a readback is intact where every byte came back, and corrupt where another station changed one. -/
theorem test_readback_outcome :
    let sent : Frame := ⟨⟨9, 1, 7⟩, .cabt 5 0⟩
    let bytes := Frame.lineBytes sent
    State.hearOwnByte active sent (bytes.take 15) (bytes.getD 15 0) = ([], [.otherFrameReadback true]) ∧
      State.hearOwnByte active sent (bytes.take 15) 0xFF = ([], [.otherFrameReadback false]) ∧
      State.hearOwnByte active sent (bytes.take 14) 0xFF = (bytes.take 14 ++ [0xFF], []) := by decide +kernel

/-- The lengths of section 3.7 and of section 6.9. -/
theorem test_frame_lengths : frameLength (.opn 0 false false 0) = 20 ∧ frameLength (.upd 4 0 10 [0, 0]) = 24 ∧
    frameLength (.ntc 255 2 900) = 16 ∧ frameLength (.cbeg 5 9 0 5) = 20 ∧
    frameLength (.cblk 5 9 0 (List.replicate 16 0)) = 80 ∧ frameLength (.close 0 0 0) = 20 := by decide

/-! ## One command at a time -/

/-- A part of the next state; none after a fault or a refusal. -/
def look {α : Type} (o : Host.Outcome State Fault Refusal) (part : State → α) : Option α :=
  match o with
  | .next t => some (part t)
  | _ => none

/-- The details of the events held. -/
def details (s : State) : List EventDetail := s.events.map Event.detail

/-- The state of section 1.3: window 5 held WRITE and CURRENT, DOWN, G = 40, H = 12, local base 3000; the byte at
store block 3000, word 13 is ABh. -/
def translating : State :=
  { active with
    windows := active.windows.set 5 { globalLength := 40, holding := some ⟨.write, 12, .down, 3000⟩, currency := .current }
    store := [(192052, 0xAB)] }

/-- The access at a byte offset of the aperture. -/
def access (offset : Nat) (lanes : Lanes) (kind : BusAccess) : HostAccess := ⟨BitVec.ofNat 20 (offset / 4), lanes, kind⟩

def allLanes : Lanes := ⟨true, true, true, true⟩

/-- What the grant of an access answers, and the faults it reports. -/
def granted (a : HostAccess) : Option (Option BusResponse × List EventDetail) :=
  look (exec .hostStoreClaimGranted { translating with hostClaim := some ⟨a, true⟩ }) fun t => (t.busResponse, details t)

/-- Rows 1 and 2 of the worked translation of section 1.3. -/
theorem test_translation_passes :
    granted (access 329524 allLanes .read) = some (some (.readDone 0xAB000000), []) ∧
      granted (access 330172 allLanes .read) = some (some (.readDone 0), []) := by decide +kernel

/-- Rows 3, 5 and 6 of the worked translation of section 1.3. -/
theorem test_translation_faults :
    granted (access 329468 allLanes .read) = some (some .readError, [.hostFault .outOfExtent 1788 false]) ∧
      granted (access 329524 ⟨true, true, false, false⟩ .read) =
        some (some .readError, [.hostFault .partialWord 1844 false]) ∧
      granted (access 2424832 allLanes .read) = some (some .readError, [.hostFault .unheld 0 false]) := by
  decide +kernel

/-- R13: a read taken on-line and granted after the leave is done faults, and one taken off-line does not. -/
theorem test_read_overtaken_by_leave :
    let answer (onLine : Bool) := look (exec .hostStoreClaimGranted
      { configured with hostClaim := some ⟨access 252 allLanes .read, onLine⟩ }) fun t => (t.busResponse, details t)
    answer true = some (some .readError, [.hostFault .notAvailable 252 false]) ∧
      answer false = some (some (.readDone 0), []) := by decide +kernel

/-- Row 4 of the worked translation: the on-line write is decided as it is taken. -/
theorem test_write_beyond_window :
    look (exec (.hostDataAccess (access 330240 allLanes .read).address allLanes (.write 1)) translating)
      (fun t => (t.busResponse, details t)) =
        some (some .writeError, [.hostFault .beyondWindow 2560 true]) := by decide +kernel

/-- Section 6.9: at 100 bt the write of window 7, block 4, word 4 is appended to entry 7. -/
theorem test_write_merges :
    look (exec (.hostDataAccess (access (7 * 65536 + 4 * 64 + 16) allLanes .read).address allLanes (.write 44))
      { active with
        windows := active.windows.set 7 { globalLength := 6, holding := some ⟨.write, 6, .up, 8⟩, currency := .current }
        outbound := [.update 7 4 0 [1, 2, 3, 4] false] }) State.outbound =
      some [.update 7 4 0 [1, 2, 3, 4, 44] false] := by decide +kernel

theorem test_init_pass_ends :
    look (exec .initPassStep { State.reset with initPass := some 8191 }) (fun t => (t.station, t.initPass)) =
      some (.unconfigured, none) := by decide +kernel

/-- R164, R172: two lanes of the word at 100h; the byte at the lowest offset is the most significant. -/
theorem test_control_region_lanes :
    look (exec (.controlRegionWrite 0x40 ⟨true, false, false, true⟩ 0x11223344) unconfigured) State.region =
      some [(0x100, 0x11), (0x103, 0x44)] := by decide +kernel

/-- R165: a code of 17 completes BAD_OPERAND, with the code, the tag and the count. -/
theorem test_bad_command_code :
    look (exec (.badCommandCode 17 9) unconfigured) (fun t => (t.completion.status, t.completion.code, t.completion.tag,
      t.completion.count)) = some (.badOperand, 17, 9, 1) := by decide +kernel

/-- R165: the issue word over a recorded code of 17 completes BAD_OPERAND past the gate and BUSY in INITIALISING. -/
theorem test_issue_of_a_bad_code :
    let issued (s : State) := look (exec (.controlRegionWrite 0x88 ⟨false, false, false, false⟩ 5)
      { s with region := (s.fillCommand 17 [] 9).region }) fun t => (t.completion.status, t.completion.tag)
    issued unconfigured = some (.badOperand, 9) ∧ issued State.reset = some (.busy, 9) := by decide +kernel

/-- A staging area (R173): station 9, S = 2, L = 256, settle 16, drain 16, grace 32, copy share 2, waits 2, limits 2 and 1,
slots 0 and 1 of stations 5 and 9, window 0 WRITE and whole with G = 4. -/
def staged : Memory :=
  [(0x00, 9), (0x01, 2), (0x02, 1), (0x05, 16), (0x07, 16), (0x08, 32), (0x09, 2), (0x0A, 2), (0x0B, 2), (0x0C, 2),
    (0x0D, 1), (0x10, 5), (0x11, 9), (0x31, 4), (0x32, 2), (0x35, 4)]

theorem test_configure :
    look (exec .configureComplete { unconfigured with inFlight := some ⟨77, staged⟩ }) (fun t =>
      (t.station, t.profile.map Profile.roundLength, t.completion.status, (t.window 0).currency,
        (t.window 1).currency)) = some (.configured, some 544, .done, .stale, .unheld) := by decide +kernel

/-- R58: S = 1 fails check 1 of the geometry. -/
theorem test_configure_bad_geometry :
    look (exec .configureComplete { unconfigured with inFlight := some ⟨77, Memory.write staged 1 1⟩ }) (fun t =>
      (t.station, t.completion.status, t.completion.result[0], t.completion.result[1])) =
        some (.unconfigured, .profileError, 0, 1) := by decide +kernel

/-- R84, R64: the join timer runs 8 rounds, the quiet timer a round and 256 byte times per station number. -/
theorem test_join :
    look (exec (.join 1) configured) (fun t => (t.station, t.clock.join, t.clock.quiet)) =
      some (.listening, some 4352, some 2848) := by decide +kernel

theorem test_leave_active :
    look (exec (.leave 1) copying) (fun t => (t.station, t.control, (t.window 0).currency)) =
      some (.leaving, [.ccan 5 0], .stale) := by decide +kernel

/-- R93, R156: at a full Control Queue no CABT finds the place that a CBEG leaves behind it. -/
theorem test_leave_at_a_full_queue :
    let offered (joiner : StationNo) : ServingRecord :=
      { joiner := joiner, window := 0, first := 0, last := 1, phase := .offered, beginRound := 6 }
    look (exec (.leave 1) { serving with
        serving := [offered 5, offered 6]
        control := List.replicate 14 (.ccan 5 1) ++ [.cbeg 5 0 0 1, .cbeg 6 0 0 1] }) State.control =
      some (List.replicate 14 (.ccan 5 1)) := by decide +kernel

theorem test_reset_station :
    look (exec (.resetStation 4) active) (fun t => (t.station, t.completion.status, t.roster, t.store)) =
      some (.unconfigured, .done, [], active.store) := by decide +kernel

theorem test_declare :
    look (exec (.declare 0 1) copying) (fun t => ((t.window 0).currency, t.control, t.catchUp)) =
      some (.current, [.ccan 5 0], none) := by decide +kernel

theorem test_resync :
    look (exec (.resync 0 1) serving) (fun t => ((t.window 0).currency, t.control, t.serving)) =
      some (.catchingUp, [.cabt 5 0, .creq 0 1 0 3], []) := by decide +kernel

theorem test_watch_bad_setting :
    look (exec (.watch 0 2 1) active) (fun t => t.completion.status) = some .badOperand := by decide +kernel

theorem test_send_notice :
    look (exec (.sendNotice 255 7 65535 1) active) State.outbound = some [.notice 255 7 65535] := by decide +kernel

/-- Section 10.5: level 5 holds four records of station 6 in round 500 and has overrun. -/
def noticed : State :=
  let level5 : LevelQueue :=
    { notices := [⟨6, 5, 60, 500⟩, ⟨6, 5, 61, 500⟩, ⟨6, 5, 62, 500⟩, ⟨6, 5, 63, 500⟩], overrun := true }
  { active with notices := { threshold := 2, levels := (Vector.replicate 7 {}).set 4 level5 } }

/-- The first TAKE_NOTICE of section 10.5: sender 6, level 5, overrun, 3 left; tag 60, round 500. -/
theorem test_take_notice :
    look (exec (.takeNotice 1) noticed) (fun t => (t.completion.result[0], t.completion.result[1], t.noticeLine)) =
      some (0x06050103, 0x003C01F4, true) := by decide +kernel

theorem test_set_threshold :
    look (exec (.setThreshold 5 1) noticed) (fun t => (t.noticeLine, t.noticeWord)) = some (false, 5) := by decide +kernel

theorem test_fence_on_empty_queue :
    look (exec (.fence 77 1) active) (fun t => (t.outbound, details t)) = some ([], [.fenceDone false]) := by decide +kernel

/-- R174: a FENCE_DONE (SENT) with subject 77 in round 7, the overflow mark set. -/
theorem test_take_event :
    look (exec (.takeEvent 1) { active with events := [⟨some 77, 7, .fenceDone false⟩], eventOverflow := true }) (fun t =>
      (t.completion.result[0], t.completion.result[1], t.eventLine, t.eventOverflow)) =
        some (0x0601004D, 0x00070000, false, false) := by decide +kernel

/-- R174: G 8, READ 1, DOWN 1, H 2, base 4, CURRENT 3. -/
theorem test_window_status :
    look (exec (.windowStatus 1 1) active) (fun t =>
      (t.completion.result[0], t.completion.result[1], t.completion.result[2])) =
        some (0x00080101, 0x00020004, 0x03000000) := by decide +kernel

theorem test_roster_status_none :
    look (exec (.rosterStatus 1 1) active) (fun t => (t.completion.status, t.completion.result[0])) =
      some (.empty, 0x01000000) := by decide +kernel

theorem test_station_status :
    look (exec (.stationStatus 1) serving) (fun t => (t.completion.result[0], t.completion.result[1],
      t.completion.result[3])) = some (0x05091234, 0x000700FF, 0x05000000) := by decide +kernel

/-! ## The line of section 4.4, as station 5 has it -/

/-- S = 4, L = 512, settle and drain 64, open grace 48; slots 0 and 2 are station 3's, slot 1 station 5's, slot 3 station 6's. -/
def line4 : Profile where
  station := 5
  slots := 4
  slotLength := 512
  settle := 64
  drain := 64
  grace := 48
  copyShare := 2
  catchUpWait := 4
  copyStall := 4
  attemptLimit := 3
  silenceLimit := 3
  allotment := [3, 5, 3, 6]
  digest := 0x0BAD

/-- A window held whole, G blocks at a local base. -/
def held (g base : Nat) (mode : HoldMode) (c : Currency) (attempts : Nat) : WindowRecord :=
  { globalLength := g, holding := some ⟨mode, g, .up, base⟩, currency := c, attempts := attempts }

/-- Station 5 of section 7.7 in round 700: windows 2 and 4 CURRENT, 4 watched, 7 CATCHING_UP in its second attempt, 11
listed and advertised by no peer. -/
def station5 : State :=
  { active with
    profile := some line4
    clock := { position := some 89, round := 700 }
    roster := [{ station := 3, state := .present, lastHeard := some 700 },
      { station := 6, state := .present, lastHeard := some 700 }]
    windows := ((((Vector.replicate 32 {}).set 2 (held 16 0 .write .current 0)).set 4
      { held 16 16 .write .current 0 with watch := true }).set 7 (held 16 32 .read .catchingUp 1)).set 11
      (held 16 48 .read .stale 0)
    resync := [11]
    catchUp := some { window := 7, attempt := 2, phase := .copying 6 3 [] } }

/-- The OPEN of a slot that ends at a position. -/
def openAt (slot : Nat) (sender : StationNo) (position : Nat) : Instr :=
  .openReceived ⟨sender, BitVec.ofNat 8 slot, 700⟩ 0x0BAD false false 0 position order

/-- What the table of section 4.4 shows: position, on-time and misaligned mark. -/
def marks (t : State) : Option Nat × Bool × Bool := (t.clock.position, t.clock.onTimeMark, t.clock.misalignedMark)

/-- Rows 1 and 3 of the first table: 89 to 84 and 1117 to 1108, both backward. -/
theorem test_open_on_time :
    look (exec (openAt 0 3 89) station5) marks = some (some 84, true, false) ∧
      look (exec (openAt 2 3 1117) station5) marks = some (some 1108, true, false) := by decide +kernel

/-- Row 4: slot 3's OPEN ends at 1750, 130 byte times late. -/
theorem test_open_misaligned :
    look (exec (openAt 3 6 1750) station5) marks = some (some 1750, false, true) := by decide +kernel

/-- R62, R67: with settle 16 and an open grace of 40, slot 0's OPEN at 542 ends at 36, forward over the round end, on which
a cold mark of 2 becomes 1; the round is the sender's. -/
theorem test_open_over_a_round_end :
    look (exec (.openReceived header 0x1234 false false 3 542 order) { active with
        profile := some { line with grace := 40 }
        clock := { position := some 542, round := 6 }
        windows := active.windows.set 0 { active.window 0 with coldMark := some 2 } }) (fun t =>
      (t.clock.position, t.clock.round, (t.window 0).coldMark)) = some (some 36, 7, some 1) := by decide +kernel

/-- The second table: the misaligned mark in round 702 with the count at 1. -/
theorem test_misaligned_round :
    look (exec .misalignedRoundTest
      { station5 with clock := { station5.clock with misalignedMark := true, misalignedCount := 1 } }) (fun t =>
        (t.clock.misalignedCount, t.clock.syncLoss)) = some (0, true) := by decide +kernel

theorem test_sync_loss :
    look (exec .syncLoss { station5 with clock := { station5.clock with syncLoss := true } }) (fun t =>
      (t.station, t.clock.position, t.resync, t.clock.round)) = some (.listening, none, [], 700) := by decide +kernel

theorem test_round_end :
    look (exec .roundEnd station5) (fun t => (t.clock.position, t.clock.round, t.catchUp.map CatchUp.phase)) =
      some (some 0, 701, some (.copying 6 2 [])) := by decide +kernel

/-- Section 7.7, the UPD at 46: counted, and a frame claim for store block 26. -/
theorem test_update_received :
    look (exec (.updReceived ⟨3, 2, 700⟩ 4 0 10 [1, 2])
      { station5 with account := some { sender := 3, slot := 2, leaving := false } }) (fun t =>
        (t.frameClaims, t.account)) =
      some ([.update (some 3) 4 26 0 [1, 2]],
        some { sender := 3, slot := 2, leaving := false, updates := 1, frames := 1, windows := 16 }) := by decide +kernel

/-- Section 7.7, the grant: the written flag, and WINDOW_CHANGED with sender 3. -/
theorem test_update_applied :
    look (exec .updateApplied { station5 with frameClaims := [.update (some 3) 4 26 0 [1, 2]] }) (fun t =>
      ((t.window 4).written, details t, t.store)) =
        some (true, [.windowChanged 3], [(1667, 1), (1671, 2)]) := by decide +kernel

/-- R18, R127: an update's claim behind a copied block's waits. -/
theorem test_update_behind_a_copied_block :
    let s := { station5 with frameClaims := [.copied 7 34 (List.replicate 16 9), .update (some 3) 4 26 0 [1]] }
    exec .updateApplied s = .next s := by rfl

/-- The account of section 7.7 before the CLOSE. -/
def account77 : Account :=
  { sender := 3, slot := 2, leaving := false, updates := 1, frames := 2, corrupt := 1, windows := 16
    held := [⟨3, 2, 900, 700⟩] }

/-- Section 7.7, the corrupt reception and the NTC held behind it. -/
theorem test_notice_held :
    look (exec (.ntcReceived ⟨3, 2, 700⟩ 255 2 900)
      { station5 with account := some { account77 with frames := 1, held := [] } }) State.account =
        some (some account77) := by decide +kernel

theorem test_corrupt_counted :
    look (exec .corruptReception { station5 with account := some { account77 with corrupt := 0 } }) State.account =
      some (some account77) := by decide +kernel

/-- Section 7.7, the CLOSE at 168: row 2 of R121, the losses, and the CCAN to station 6. -/
theorem test_close_short :
    look (exec (.closeReceived ⟨3, 2, 700⟩ 2 3 144) { station5 with account := some account77 }) (fun t =>
      ((t.window 2).currency, (t.window 4).currency, (t.window 7).currency, (t.window 7).attempts, t.resync)) =
        some (.current, .stale, .stale, 2, [11, 4, 7]) := by decide +kernel

/-- The events of the same CLOSE, the queued CCAN and the delivered notice. -/
theorem test_close_short_events :
    look (exec (.closeReceived ⟨3, 2, 700⟩ 2 3 144) { station5 with account := some account77 }) (fun t =>
      (details t, t.control, (t.notices.queue 1).notices)) =
        some ([.windowState .current .stale .loss 0 none,
          .windowState .catchingUp .stale .attemptFailed 2 (some .loss)], [.ccan 6 7], [⟨3, 2, 900, 700⟩]) := by
  decide +kernel

/-- Section 9.1 and R146: a CREQ for a held range is offered. -/
theorem test_creq_offered :
    look (exec (.creqReceived ⟨3, 2, 700⟩ 4 1 0 15)
      { station5 with account := some { sender := 3, slot := 2, leaving := false } }) (fun t => (t.serving, t.control)) =
      some ([{ joiner := 3, window := 4, first := 0, last := 15, phase := .offered, beginRound := 700 }],
        [.cbeg 3 4 0 15]) := by decide +kernel

/-- R133: the first CBEG names the donor and starts the stall timer. -/
theorem test_cbeg_names_donor :
    look (exec (.cbegReceived ⟨3, 2, 700⟩ 5 7 0 15) { station5 with
        account := some { sender := 3, slot := 2, leaving := false }
        catchUp := some { window := 7, attempt := 2, phase := .requested 4 } }) State.catchUp =
      some (some { window := 7, attempt := 2, phase := .copying 3 4 [] }) := by decide +kernel

/-- R134: a CBLK of the donor joins the received set and becomes a frame claim. -/
theorem test_cblk_from_donor :
    look (exec (.cblkReceived ⟨6, 3, 700⟩ 5 7 2 (List.replicate 16 9))
      { station5 with account := some { sender := 6, slot := 3, leaving := false } }) (fun t =>
        (t.frameClaims, t.catchUp)) =
      some ([.copied 7 34 (List.replicate 16 9)], some { window := 7, attempt := 2, phase := .copying 6 4 [2] }) := by
  decide +kernel

theorem test_copied_block_written :
    look (exec .copiedBlockWritten { station5 with frameClaims := [.copied 7 34 (1 :: List.replicate 15 0)] }) (fun t =>
      (t.store, (t.window 7).written)) = some ([(2179, 1)], true) := by decide +kernel

/-- R136: a CEND that finds blocks missing fails the attempt INCOMPLETE. -/
theorem test_cend_incomplete :
    look (exec (.cendReceived ⟨6, 3, 700⟩ 5 7 16)
      { station5 with account := some { sender := 6, slot := 3, leaving := false } }) (fun t => (details t, t.resync)) =
      some ([.windowState .catchingUp .stale .attemptFailed 2 (some .incomplete)], [11, 7]) := by decide +kernel

theorem test_cabt_from_donor :
    look (exec (.cabtReceived ⟨6, 3, 700⟩ 5 7)
      { station5 with account := some { sender := 6, slot := 3, leaving := false } }) (fun t => (t.catchUp, t.control)) =
      some (none, []) := by decide +kernel

theorem test_ccan_ends_record :
    look (exec (.ccanReceived ⟨5, 0, 7⟩ 9 0)
      { serving with account := some { sender := 5, slot := 0, leaving := false } }) State.serving = some [] := by
  decide +kernel

theorem test_peer_silent :
    look (exec (.peerSilent 6) { station5 with roster := [{ station := 3, state := .present },
        { station := 6, state := .present, silent := 3, lastHeard := some 697 }] }) (fun t => (details t, t.catchUp)) =
      some ([.peerDeparted .silent (some 697), .windowState .catchingUp .stale .attemptFailed 2 (some .donorAbsent)],
        none) := by decide +kernel

/-- R75, R129: two peers fall silent at one round end. Behind the first departure the attempt on window 11 waits; behind the
last no peer advertises the window, and none begins. -/
theorem test_two_peers_silent :
    let two := { station5 with
      catchUp := none, windows := station5.windows.set 7 (held 16 32 .read .current 0)
      roster := [{ station := 3, state := .present, silent := 3, lastHeard := some 697, current := 4 },
        { station := 6, state := .present, silent := 3, lastHeard := some 697, current := 2048 }] }
    look (exec (.peerSilent 3) two) (fun t => (t.catchUp.isNone, t.resync)) = some (true, [11]) ∧
      look (exec (.peerSilent 6) { two with roster := two.roster.map fun r =>
        if r.station = 3 then { r with state := .absent } else r }) (fun t => (t.catchUp.isNone, t.resync)) =
        some (true, [11]) := by decide +kernel

theorem test_silence_check :
    look (exec .rosterSilenceCheck { station5 with clock := { station5.clock with endedRound := 701 } }) (fun t =>
      t.roster.map RosterRecord.silent) = some [1, 1] := by decide +kernel

theorem test_stall_expiry :
    look (exec .stallTimerExpiry
      { station5 with catchUp := some { window := 7, attempt := 2, phase := .copying 6 0 [] } }) (fun t =>
        (t.control, (t.window 7).attempts)) = some ([.ccan 6 7], 2) := by decide +kernel

theorem test_wait_expiry :
    look (exec .waitTimerExpiry { station5 with
        catchUp := some { window := 7, attempt := 2, phase := .requested 0 }, control := [.creq 7 2 0 15] }) (fun t =>
      (t.control, (t.window 7).attempts)) = some ([], 2) := by decide +kernel

theorem test_offer_lapse :
    look (exec .offerLapse { serving with
        clock := { active.clock with endedRound := 9 }
        serving := [{ joiner := 5, window := 0, first := 0, last := 1, phase := .offered, beginRound := 6 }]
        control := [.cbeg 5 0 0 1] }) (fun t => (t.serving, t.control)) = some ([], []) := by decide +kernel

theorem test_grace_expiry_ends_account :
    look (exec (.openGraceExpiry 0) { active with
        account := some { sender := 5, slot := 0, leaving := false, armed := [0] } }) (fun t =>
      (t.account, (t.window 0).currency)) = some (none, .catchingUp) := by decide +kernel

/-! ## Own slots, as in section 6.9 -/

/-- Station 9 of `line` in its own slot, with the control step to come and the slot's count at 22. -/
def filling : State :=
  { active with
    clock := { position := some 294, round := 7 }
    filler := some { slot := 1, round := 7, count := 22, step := .control }, lastOpened := some (7, 1) }

theorem test_slot_start_opens :
    look (exec (.slotStart 1) active) (fun t => (t.transmitter.map fun x => x.frame.body, t.lastOpened)) =
      some (some (.opn 0x1234 false false 3), some (7, 1)) := by decide +kernel

/-- R104, R106, R110: a CREQ of 20 bytes at 22 passes the room test and is tallied. -/
theorem test_control_frame_offered :
    look (exec .slotFrameOffer { filling with control := [.creq 0 1 0 3] }) (fun t =>
      (t.transmitter.map Sending.start, t.control, t.filler.map Filling.frames)) = some (some 22, [], some 1) := by
  decide +kernel

/-- Section 6.9, at 302: an UPD of 36 bytes with a reserve of 180 does not fit in 512, and the copy step claims its read. -/
theorem test_room_with_reserve :
    look (exec .slotFrameOffer { serving with
        profile := some { line with slotLength := 512 }
        serving := [{ joiner := 5, window := 0, first := 0, last := 3, phase := .serving 1, beginRound := 6 }]
        outbound := [.update 0 1 0 [1, 2, 3, 4, 5] false]
        filler := some { slot := 1, round := 7, count := 302, step := .outbound } }) (fun t =>
      (t.transmitter, t.copyRead)) = some (none, some (5, 0)) := by decide +kernel

/-- R21, R152: no copy read is claimed while an own update frame waits to be applied. -/
theorem test_copy_read_waits_for_own_update :
    look (exec .slotFrameOffer { serving with
        frameClaims := [.update none 0 1 0 [1]]
        filler := some { slot := 1, round := 7, count := 24, step := .copy } }) (fun t =>
      (t.copyRead, t.filler.map Filling.step)) = some (none, some .copy) := by decide +kernel

/-- R152: the last block of a record goes as a CBLK, and a CEND of two blocks is queued. -/
theorem test_copy_read_granted :
    look (exec .copyReadGranted { serving with
        copyRead := some (5, 0), filler := some { slot := 1, round := 7, count := 24, step := .copy } }) (fun t =>
      (t.control, t.serving, t.copyRead)) = some ([.cend 5 0 2], [], none) := by decide +kernel

theorem test_slot_end_offers_close :
    look (exec (.slotEnd 1) filling) (fun t => (t.transmitter.map fun x => x.frame.body)) =
      some (some (.close 0 0 0)) := by decide +kernel

/-- The frame of this body is on the line from the slot's count 22 on. -/
def sendingBody (s : State) (b : FrameBody) : State := { s with transmitter := some ⟨⟨⟨9, 1, 7⟩, b⟩, 22⟩ }

/-- Section 6.9: entry 1 is applied and removed, and FENCE 77 behind it completes. -/
theorem test_update_readback :
    look (exec (.updReadback true) { sendingBody filling (.upd 0 0 2 [1, 2]) with
        outbound := [.update 0 2 0 [1, 2] true, .fence 77, .notice 255 2 900] }) (fun t =>
      (t.outbound, details t, t.frameClaims)) =
        some ([.notice 255 2 900], [.fenceDone false], [.update none 0 2 0 [1, 2]]) := by decide +kernel

theorem test_notice_readback_lost :
    look (exec (.ntcReadback false) { sendingBody filling (.ntc 255 2 900) with outbound := [.notice 255 2 900] }) (fun t =>
      (t.outbound, details t)) = some ([], [.ownFrameLost 1 (.ntc 255 2 900)]) := by decide +kernel

theorem test_creq_readback :
    look (exec (.creqReadback false) { sendingBody requesting (.creq 0 1 0 3) with filler := filling.filler }) (fun t =>
      t.catchUp.map CatchUp.phase) = some (some (.requested 2)) := by decide +kernel

theorem test_cbeg_readback :
    look (exec (.cbegReadback true) { sendingBody serving (.cbeg 5 0 0 1) with
        serving := [{ joiner := 5, window := 0, first := 0, last := 1, phase := .offered, beginRound := 6 }] }) (fun t =>
      t.serving.map ServingRecord.phase) = some [.serving 0] := by decide +kernel

theorem test_open_readback_lost_twice :
    look (exec (.openReadback false) { sendingBody filling (.opn 0x1234 false false 3) with openFailures := 1 }) (fun t =>
      (t.station, t.clock.standoff)) = some (.standoff, some 5440) := by decide +kernel

theorem test_close_readback_leaves :
    look (exec (.closeReadback false) { sendingBody leaving (.close 0 0 0) with
        filler := some { slot := 1, round := 7, leaving := true, step := .closing } }) (fun t =>
      (t.station, t.roster, t.receiver)) = some (.configured, [], .off) := by decide +kernel

theorem test_other_frame_readback :
    look (exec (.otherFrameReadback true) (sendingBody filling (.ccan 5 0))) (fun t =>
      (t.transmitter, t.filler.map Filling.count)) = some (none, some 38) := by decide +kernel

/-! ## Timers, a byte time -/

/-- As `listening`, with this clock. -/
def timed (c : Clock) : State := { listening with clock := c }

theorem test_quiet_expiry :
    look (exec .quietTimerExpiry (timed { listening.clock with quiet := some 0 })) (fun t =>
      (t.station, t.clock.position, t.transmitter.map fun x => x.frame.body)) =
        some (.coldStart, some 272, some (.opn 0x1234 true false 3)) := by decide +kernel

/-- R64: a report that has started the quiet timer again keeps it from expiring. -/
theorem test_quiet_expiry_restarted :
    look (exec .quietTimerExpiry listening) State.station = some .listening := by decide +kernel

/-- R64, R86: the OPEN that ends as the quiet timer expires is judged by the running clock and taken by the Roster. -/
theorem test_open_with_the_cold_start :
    (match exec .quietTimerExpiry (timed { listening.clock with quiet := some 0 }) with
      | .next t => look (exec (.openReceived header 0x1234 true false 3 272 order) t) fun u =>
          (u.station, u.clock.misalignedMark, (u.rosterOf 5).map RosterRecord.current)
      | _ => none) = some (.coldStart, true, some 3) := by decide +kernel

theorem test_join_expiry_muted :
    look (exec .joinTimerExpiry (timed { listening.clock with join := some 0, foreignMark := true })) (fun t =>
      (t.station, t.clock.join)) = some (.muted, none) := by decide +kernel

theorem test_standoff_expiry :
    look (exec .standoffTimerExpiry { standoff with clock := { standoff := some 0 } }) (fun t => (t.station, t.clock.quiet)) =
      some (.listening, some 2848) := by decide +kernel

theorem test_cold_mark_goes :
    look (exec .coldMarkReduction { active with
        windows := active.windows.set 0 { active.window 0 with coldMark := some 1 } }) (fun t => (t.window 0).coldMark) =
      some none := by decide +kernel

theorem test_lead_ends_discard_run :
    look (exec .leadFound { active with
        receiver := .discarding, account := some { sender := 5, slot := 0, leaving := false } }) (fun t =>
      (t.receiver, t.account.map Account.corrupt)) = some (.receiving, some 1) := by decide +kernel

theorem test_discard_run :
    look (exec .discardRunStart active) State.receiver = some .discarding := by decide +kernel

/-- R62: at 272 the end of slot 0 comes before the start of slot 1. -/
theorem test_byte_time :
    look (step { active with clock := { position := some 271, round := 7 } }) State.pending =
      some [.slotEnd 0, .slotStart 1] := by decide +kernel

/-! ## The hypotheses of the statements are met

One theorem for each statement that has hypotheses: a state and operands that meet them together, clause by clause. -/

/-- As `filling`, with a copy read that waits for the serving record of window 0. -/
def reading : State :=
  { serving with
    clock := filling.clock, lastOpened := some (7, 1), copyRead := some (5, 0), turn := some (5, 0)
    filler := some { slot := 1, round := 7, count := 24, step := .copy } }

/-- As `coldStart`, with the COLD OPEN on the line. -/
def coldOpening : State :=
  { sendingBody coldStart (.opn 0x1234 true false 3) with
    filler := some { slot := 1, round := 0, step := .opened }, lastOpened := some (0, 1) }

/-- As `filling`, with a frame of this body on the line. -/
def driving (b : FrameBody) : State := sendingBody filling b

/-- As `station5`, with a young cold grant. -/
def youngGrant : State :=
  { station5 with windows := station5.windows.set 4 { held 16 16 .write .current 0 with coldMark := some 4 } }

/-- As `station5`, under an account of station 6. -/
def accounted6 : State := { station5 with account := some { sender := 6, slot := 3, leaving := false } }

/-- As `station5`, under the account of section 7.7. -/
def accounted3 : State := { station5 with account := some account77 }

/-- As `station5`, with station 3 FOREIGN. -/
def foreign3 : State :=
  { station5 with roster := [{ station := 3, state := .foreign }, { station := 6, state := .present }] }

/-- As `serving`, under an account of the peer. -/
def accounted5 : State := { serving with account := some { sender := 5, slot := 0, leaving := false } }

/-- As `waiting`, window 0 STRANDED. -/
def stranded : State :=
  { waiting with resync := [], windows := waiting.windows.set 0 { waiting.window 0 with currency := .stranded, attempts := 2 } }

/-- As `listening`, in MUTED. -/
def muted : State := { listening with station := .muted, clock := {} }

/-- As `coldStart`, at the instant at which the quiet timer has expired. -/
def coldNow : State :=
  { coldStart with
    transmitter := some ⟨⟨⟨9, 1, 0⟩, .opn 0x1234 true false 3⟩, 0⟩
    filler := some { slot := 1, round := 0, step := .opened }, lastOpened := some (0, 1) }

/-- As `station5`, on a line with a wider open grace. -/
def wide : State := { station5 with profile := some { line4 with grace := 100 } }

/-- As `accounted3`, with as many notices held as an account keeps. -/
def manyHeld : State :=
  { accounted3 with account := some { account77 with held := List.replicate 253 ⟨3, 2, 900, 700⟩ } }

/-- What is taken, in a form that can be computed. -/
theorem takes_iff {s : State} {h : Header} {b : FrameBody} :
    s.takes h b ↔ s.station.onLine = true ∧ (s.transmitter = none ∨ (FrameBody.isOpen b = true ∧ s.coldInstant = true)) ∧
      s.receiver ≠ .discarding ∧ s.malformed h b = false := by
  unfold State.takes; rw [Laws.isOpen_iff, Laws.coldInstant_iff]

/-- No own slot is in progress, in a form that can be computed. -/
theorem offSlot_iff {s : State} : s.offSlot ↔ s.filler.all (fun f => decide (f.step = .abandoned)) = true := by
  unfold State.offSlot; cases s.filler <;> simp

/-- Every sample state meets Sound. -/
def samples : List State :=
  [listening, standoff, coldStart, active, leaving, copying, requesting, waiting, stranded, serving, filling, reading,
    coldOpening, driving (.opn 0x1234 false false 3), driving (.upd 0 0 2 [1]), driving (.ntc 255 2 900), youngGrant,
    accounted6, accounted3, foreign3, accounted5, station5, muted, coldNow, wide, manyHeld, configured, unconfigured, State.reset]

theorem samples_sound : samples.all soundTest = true := by decide +kernel

theorem sound {s : State} (h : s ∈ samples) : s.Sound := sound_of_test (List.all_eq_true.1 samples_sound s h)

theorem sound_active : active.Sound := sound (by simp [samples])
theorem sound_station5 : station5.Sound := sound (by simp [samples])

/-- A state with empty queues meets WithinLimits, whatever of the station's its frame is. -/
theorem limits_of_empty {s : State} (h1 : s.outbound = []) (h2 : s.control = []) (h3 : s.serving.length ≤ 4)
    (h4 : s.events = []) (h5 : s.eventOverflow = false) (h6 : s.notices = {}) (h7 : s.account = none) : s.WithinLimits where
  outbound := by rw [h1]; decide
  noFenceAtHead := by rw [h1]; rfl
  control := by rw [h2]; decide
  controlFrames := by rw [h2]; intro b hb; cases hb
  serving := h3
  held := by rw [h7]; intro a ha; cases ha
  events := by rw [h4]; decide
  overflow := by rw [h5]; intro h; cases h
  notices := by rw [h6]; decide +kernel
  overrun := by rw [h6]; decide +kernel

theorem limits_active : active.WithinLimits := limits_of_empty rfl rfl (by decide) rfl rfl rfl rfl
theorem limits_reading : reading.WithinLimits := limits_of_empty rfl rfl (by decide) rfl rfl rfl rfl

/-- STOPPED, FREE, RUNNING at a round end, and RUNNING in an own slot. -/
theorem witness_EmptyQueueIsOneByteTime :
    (configured.pending = [] ∧ configured.profile = some line ∧ configured.station.clockMode = .stopped) ∧
      (listening.pending = [] ∧ listening.profile = some line ∧ listening.station.clockMode = .free) ∧
      (let s := { active with clock := { position := some 543, round := 7 } }
       s.pending = [] ∧ s.profile = some line ∧ s.station.clockMode = .running ∧ s.clock.position = some 543) ∧
      (filling.pending = [] ∧ filling.profile = some line ∧ filling.clock.position = some 294) := by decide

theorem witness_ResetStationGivesTheResetValues : active.region.wf = true ∧ active.station ≠ .initialising := by decide

theorem witness_InitPassStepZeroesOneBlock :
    (State.reset.initPass = some 0 ∧ 0 ≤ 8191 ∧ State.reset.store.wf = true) ∧
      ({ State.reset with initPass := some 8191 }.initPass = some 8191 ∧ 8191 ≤ 8191) := by decide

/-- A state that allows no access, an on-line write to a READ window, a read beyond its window at the grant, and a read that
the change from LEAVING to CONFIGURED has overtaken. -/
theorem witness_AccessFaultsAtItsFirstFailedCheck :
    (firstFailed (accessChecks listening (access 0 allLanes .read)) = some .notAvailable ∧ listening.hostClaim = none ∧
      hostAccessOpen listening = false) ∧
    (firstFailed (accessChecks active (access 65920 allLanes (.write 1))) = some .readOnly ∧ active.hostClaim = none ∧
      active.station.takesPart = true ∧ (access 65920 allLanes (.write 1)).isWrite = true) ∧
    (let c : HostClaim := ⟨access 256 allLanes .read, true⟩
     let s := { active with hostClaim := some c }
     firstFailed (claimChecks s c) = some .beyondWindow ∧ s.frameClaims = [] ∧ s.copyRead = none) ∧
    (let c : HostClaim := ⟨access 252 allLanes .read, true⟩
     let s := { configured with hostClaim := some c }
     firstFailed (claimChecks s c) = some .notAvailable ∧ firstFailed (accessChecks s c.access) = none ∧
      s.frameClaims = [] ∧ s.copyRead = none) := by decide +kernel

/-- The write of window 0, block 3, word 15 with an empty queue, over the last word of the tail, and behind it. -/
theorem witness_OnLineWriteIsQueued :
    let a := access 252 allLanes (.write 1)
    let onto := { active with outbound := [.update 0 3 14 [1, 2] false] }
    let behind := { active with outbound := [.update 0 3 14 [1] false] }
    a.access = .write 1 ∧ a.window = some 0 ∧
      (active.hostClaim = none ∧ active.station = .active ∧ firstFailed (accessChecks active a) = none) ∧
      (onto.hostClaim = none ∧ firstFailed (accessChecks onto a) = none) ∧
      (behind.hostClaim = none ∧ firstFailed (accessChecks behind a) = none) := by decide +kernel

theorem witness_AccessReachesTheStoreAtItsGrant :
    let r := access 252 allLanes .read
    let w := access 252 allLanes (.write 1)
    active.store.wf = true ∧ (active.hostClaim = none ∧ hostAccessOpen active = true ∧ (r.isWrite = true → False)) ∧
      (let s := { active with hostClaim := some ⟨r, true⟩ }
       s.frameClaims = [] ∧ s.copyRead = none ∧ firstFailed (claimChecks s ⟨r, true⟩) = none ∧
         (s.addressed r).storeBlock r.block = some 3 ∧ r.access = .read) ∧
      (let s := { configured with hostClaim := some ⟨w, false⟩ }
       s.frameClaims = [] ∧ s.copyRead = none ∧ firstFailed (claimChecks s ⟨w, false⟩) = none ∧
         (s.addressed w).storeBlock w.block = some 3 ∧ w.access = .write 1 ∧ s.station = .configured) ∧
      (let s := { active with hostClaim := some ⟨r, true⟩, frameClaims := [.update none 0 0 0 [1]] }
       s.hostClaim ≠ none ∧ s.frameClaims ≠ []) ∧
      (let s := { active with hostClaim := some ⟨r, true⟩, copyRead := some (6, 0) }
       s.hostClaim ≠ none ∧ s.copyRead ≠ none) := by decide +kernel

/-- The last word of the last store block, by a watched window's peer and by the station itself, and a copied block; and each
kind of claim at the head with the other behind it. -/
theorem witness_FrameClaimsWriteTheStore :
    (let s := { active with frameClaims := [.update (some 5) 0 8191 15 [1]] }
     s.frameClaims = [.update (some 5) 0 8191 15 [1]] ∧ 15 + [(1 : Word)].length ≤ 16 ∧ s.store.wf = true) ∧
    (let s := { active with frameClaims := [.update none 0 0 0 (List.replicate 16 1)] }
     s.frameClaims = [.update none 0 0 0 (List.replicate 16 1)] ∧ s.store.wf = true) ∧
    (let s := { active with frameClaims := [.copied 0 8191 (List.replicate 16 1)] }
     s.frameClaims = [.copied 0 8191 (List.replicate 16 1)] ∧ (List.replicate 16 (1 : Word)).length = 16 ∧
       s.store.wf = true) ∧
    (let update : FrameClaim := .update none 0 0 0 [1]
     let copied : FrameClaim := .copied 0 0 (List.replicate 16 1)
     { active with frameClaims := [update, copied] }.frameClaims.head? = some update ∧
       { active with frameClaims := [copied, update] }.frameClaims.head? = some copied) := by decide

/-- All four kinds of claim change the store somewhere. -/
theorem witness_StoreChangesByClaimsAlone :
    let changes (i : Instr) (s : State) : Option Bool := look (exec i s) fun t => decide (t.store ≠ s.store)
    changes .updateApplied { active with frameClaims := [.update none 0 0 0 [1]] } = some true ∧
      changes .copiedBlockWritten { active with frameClaims := [.copied 0 0 (List.replicate 16 1)] } = some true ∧
      changes .initPassStep { State.reset with store := [(5, 1)] } = some true ∧
      changes .hostStoreClaimGranted { configured with hostClaim := some ⟨access 0 allLanes (.write 1), false⟩ } = some true := by
  decide +kernel

theorem witness_ControlRegionWriteChangesEnabledLanes :
    unconfigured.region.wf = true ∧ 4 * (0x87 : BitVec 8).toNat < 0x220 ∧ 0x220 < 4 * (0x89 : BitVec 8).toNat := by decide

/-- RESYNC of window 31 with tag 7. -/
theorem witness_IssueWordRunsTheRecordedCommand :
    let s := { active with region := (active.fillCommand 6 [31] 7).region }
    commandRow (.resync 31 7) = some (6, [31], 7) ∧ s.region.wf = true ∧ s.commandCode = BitVec.ofNat 32 6 ∧
      s.commandTag = 7 ∧ s.operand 0 = 31 := by decide +kernel

theorem witness_GateAndCodeRefuseCommands :
    (commandRow (.join 1) ≠ none ∧ State.reset.region.wf = true ∧ State.reset.station = .initialising) ∧
      (let s := { unconfigured with inFlight := some ⟨1, []⟩ }
       s.region.wf = true ∧ s.inFlight ≠ none ∧ (.join 1 : Instr) ≠ .resetStation 1) ∧
      ((0 : Word).toNat = 0 ∧ 16 < (17 : Word).toNat ∧ 16 < (0xFFFFFFFF : Word).toNat) ∧
      (unconfigured.commandCode.toNat = 0 ∧
        16 < ({ unconfigured with region := (unconfigured.fillCommand 17 [] 9).region } : State).commandCode.toNat) := by
  decide

theorem witness_ConfigureRefusesAnUnsoundProfile :
    (unconfigured.region.wf = true ∧ unconfigured.station = .unconfigured ∧ unconfigured.inFlight = none) ∧
      (configured.region.wf = true ∧ configured.station = .configured ∧ configured.inFlight = none) ∧
      (active.region.wf = true ∧ active.station ≠ .initialising ∧ active.station ≠ .unconfigured ∧
        active.station ≠ .configured ∧ active.inFlight = none) ∧
      firstFailure (profileChecks (readRawProfile (Memory.write staged 1 1))) = some (.badGeometry, 1) := by
  decide +kernel

theorem witness_ConfigureInstallsTheProfile :
    firstFailure (profileChecks (readRawProfile staged)) = none ∧
      { unconfigured with inFlight := some ⟨1, staged⟩ }.station = .unconfigured ∧
      { configured with inFlight := some ⟨1, staged⟩ }.station = .configured := by decide +kernel

theorem witness_JoinActsByState :
    (configured.region.wf = true ∧ configured.inFlight = none ∧ configured.station = .configured ∧
        configured.profile = some line) ∧
      (standoff.region.wf = true ∧ standoff.inFlight = none ∧ standoff.station = .standoff) ∧
      (leaving.region.wf = true ∧ leaving.inFlight = none ∧ leaving.station = .leaving) := by decide

theorem witness_LeaveInActiveStopsCatchUp :
    (reading.region.wf = true ∧ reading.station = .active ∧ reading.inFlight = none ∧ reading.copyRead = some (5, 0)) ∧
      (requesting.station = .active ∧ requesting.inFlight = none ∧ copying.station = .active) := by decide

theorem witness_LeaveElsewhereActsByState :
    [listening, standoff, coldStart, leaving, unconfigured, configured].all
      (fun s => s.region.wf && s.inFlight.isNone) = true := by decide

/-- Every clause of DECLARE and of RESYNC: a state other than ACTIVE, no window 32, a window not held, and each currency. -/
theorem witness_DeclareMakesTheWindowCurrent :
    (standoff.Sound ∧ standoff.region.wf = true ∧ standoff.inFlight = none ∧ standoff.station ≠ .active) ∧
      (active.Sound ∧ active.station = .active ∧ 32 ≤ (32 : Word).toNat ∧ (active.window 31).holding = none ∧
        (active.window 0).currency = .current) ∧
      (waiting.Sound ∧ (waiting.window 0).currency = .stale) ∧ (stranded.Sound ∧ (stranded.window 0).currency = .stranded) ∧
      (requesting.Sound ∧ (requesting.window 0).currency = .catchingUp) ∧ copying.Sound :=
  ⟨⟨sound (by simp [samples]), by decide⟩, ⟨sound_active, by decide +kernel⟩, ⟨sound (by simp [samples]), by decide +kernel⟩,
    ⟨sound (by simp [samples]), by decide +kernel⟩, ⟨sound (by simp [samples]), by decide +kernel⟩,
    sound (by simp [samples])⟩

theorem witness_ResyncListsTheWindow :
    (serving.Sound ∧ serving.region.wf = true ∧ serving.inFlight = none ∧ serving.station = .active ∧
        (0 : Word).toNat = (0 : WindowNo).val ∧ (serving.window 0).currency = .current) ∧
      (stranded.Sound ∧ stranded.station = .active ∧ (stranded.window 0).currency = .stranded) ∧
      (copying.Sound ∧ (copying.window 0).currency = .catchingUp) ∧
      (standoff.Sound ∧ standoff.station ≠ .initialising ∧ standoff.station ≠ .active) :=
  ⟨⟨sound (by simp [samples]), by decide +kernel⟩, ⟨sound (by simp [samples]), by decide +kernel⟩,
    ⟨sound (by simp [samples]), by decide +kernel⟩, ⟨sound (by simp [samples]), by decide⟩⟩

theorem witness_WatchAndClearWrittenSetTheFlags :
    (unconfigured.region.wf = true ∧ unconfigured.station = .unconfigured ∧ unconfigured.inFlight = none) ∧
      (active.region.wf = true ∧ active.station ≠ .unconfigured ∧ active.inFlight = none ∧ 32 ≤ (32 : Word).toNat) ∧
      ((active.window 31).holding = none ∧ (31 : Word).toNat = (31 : WindowNo).val ∧ 1 < (2 : Word).toNat) ∧
      ((active.window 0).holding ≠ none ∧ (0 : Word).toNat = (0 : WindowNo).val ∧ (1 : Word).toNat ≤ 1) := by decide +kernel

theorem witness_SendNoticeQueuesAnEntry :
    (active.region.wf = true ∧ active.station = .active ∧ active.inFlight = none ∧ active.outbound.length < 64) ∧
      (leaving.region.wf = true ∧ leaving.station ≠ .active) ∧
      { active with outbound := List.replicate 64 (.notice 5 1 0) }.outbound.length = 64 := by decide

theorem witness_FenceQueuesOrCompletes :
    (active.WithinLimits ∧ active.region.wf = true ∧ active.inFlight = none ∧ active.outbound = []) ∧
      (standoff.WithinLimits ∧ standoff.station ≠ .active ∧ standoff.station ≠ .leaving) ∧
      (let s := { active with outbound := List.replicate 64 (.notice 5 1 0) }
       s.WithinLimits ∧ s.region.wf = true ∧ s.inFlight = none ∧ s.outbound.length = 64) :=
  ⟨⟨limits_active, by decide⟩, ⟨limits_of_empty rfl rfl (by decide) rfl rfl rfl rfl, by decide⟩,
    ⟨{ limits_active with outbound := by decide, noFenceAtHead := by decide }, by decide⟩⟩

theorem witness_NoticeCommandsServeTheHost :
    (active.region.wf = true ∧ active.inFlight = none ∧ ∀ i : Fin 7, (active.notices.queue i).notices = []) ∧
      (noticed.region.wf = true ∧ noticed.station ≠ .initialising ∧ noticed.inFlight = none ∧
        (noticed.notices.queue 4).notices = [⟨6, 5, 60, 500⟩, ⟨6, 5, 61, 500⟩, ⟨6, 5, 62, 500⟩, ⟨6, 5, 63, 500⟩] ∧
        ∀ j : Fin 7, 4 < j → (noticed.notices.queue j).notices = []) ∧
      (7 < (8 : Word).toNat ∧ (7 : Word).toNat ≤ 7) := by decide +kernel

theorem witness_TakeEventReturnsTheOldest :
    let s := { active with events := [⟨none, 7, .fenceDone false⟩] }
    s.region.wf = true ∧ s.station ≠ .initialising ∧ s.inFlight = none ∧ s.events = [⟨none, 7, .fenceDone false⟩] ∧
      active.events = [] := by decide

theorem witness_EventQueueKeepsTheFirstThirtyTwo :
    { active with events := List.replicate 32 ⟨none, 7, .fenceDone false⟩ }.events.length ≤ 32 := by decide

/-- The last or only offset of each part of the control region; no profile and one; no notice and notices of level 5. -/
theorem witness_StatusCommandsReadTheState :
    ((∀ offset ∈ [0x21C, 0x240, 0x244, 0x248 + 4 * (15 : Fin 16).val, 0x300, 0x304, 0x308, 0x30C, 0x310, 0x23C, 0x2FC, 0x314],
        offset % 4 = 0) ∧ unconfigured.profile = none ∧ copying.profile = some line ∧
      (noticed.notices.queue 4).notices ≠ [] ∧ (∀ j : Fin 7, 4 < j → (noticed.notices.queue j).notices = []) ∧
      ∀ i : Fin 7, (active.notices.queue i).notices = []) ∧
    (unconfigured.region.wf = true ∧ unconfigured.station = .unconfigured ∧ unconfigured.inFlight = none) ∧
      (copying.region.wf = true ∧ copying.station ≠ .unconfigured ∧ copying.station ≠ .initialising ∧
        copying.inFlight = none ∧ (31 : Word).toNat = (31 : WindowNo).val) ∧
      (30 < (31 : Word).toNat ∧ (30 : Word).toNat ≤ 30 ∧ copying.roster.length ≤ (1 : Word).toNat ∧
        copying.roster[(0 : Word).toNat]? = some { station := 5, state := .present, lastHeard := some 7, current := 3 }) := by
  decide

/-- The receiver off the line, on it, in a discard run, and behind a frame being driven; a malformed CCAN; the instant of
the cold start; an NTC in LISTENING, and an OPEN in STANDOFF and MUTED. -/
theorem witness_ReceiverFollowsTheLine :
    (active.profile = some line ∧ active.station.onLine = true ∧ active.transmitter = none ∧ active.receiver ≠ .discarding ∧
        active.malformed header (.ccan 64 0) = true) ∧
      configured.station.onLine = false ∧ (driving (.ccan 5 0)).transmitter ≠ none ∧
      (let s := { active with receiver := .discarding }
       s.receiver = .discarding ∧ s.station.onLine = true ∧ (look (exec .leadFound s) State.receiver).isSome = true) ∧
      (¬ kindIsOpen (.ccan 5 0) ∧ coldNow.transmitter ≠ none ∧ coldNow.coldStarting ∧ kindIsOpen (.opn 0x1234 false false 3)) ∧
      (listening.profile = some line ∧ listening.takes header (.ntc 255 2 900) ∧ listening.station.takesPart = false ∧
        ¬ kindIsOpen (.ntc 255 2 900)) ∧
      (standoff.profile = some line ∧ standoff.takes header (.opn 0x1234 false false 3) ∧ standoff.station = .standoff) ∧
      (muted.profile = some line ∧ muted.takes header (.opn 0x1234 false false 3) ∧ muted.station = .muted) := by
  simp only [takes_iff, ← Laws.isOpen_iff, ← Laws.coldInstant_iff]; decide +kernel

/-- A MATCHING OPEN in LISTENING, and a LEAVING one. -/
theorem witness_OpenInListeningJoinsTheLine :
    listening.Sound ∧ listening.profile = some line ∧ listening.station = .listening ∧
      listening.takes header (.opn line.digest true false 3) ∧ listening.takes header (.opn line.digest false true 3) ∧
      header.slotIndex.toNat < line.slots ∧ line.allotment[header.slotIndex.toNat]? = some header.sender ∧
      listening.rosterOf header.sender = some { station := 5 } :=
  ⟨sound (by simp [samples]), by simp only [takes_iff]; decide +kernel⟩

/-- Foreign by the digest, by a slot index of S or more, and by an owner; in LISTENING and in RUNNING. -/
theorem witness_ForeignOpenIsShunned :
    (listening.Sound ∧ listening.station = .listening ∧ listening.takes header (.opn 0x1235 false false 0) ∧
        (0x1235 : Half) ≠ line.digest) ∧
      (station5.Sound ∧ station5.profile = some line4 ∧ station5.station.clockMode = .running ∧
        station5.takes ⟨3, 4, 700⟩ (.opn line4.digest false false 0) ∧ line4.slots ≤ (4 : Byte).toNat ∧
        station5.takes ⟨3, 3, 700⟩ (.opn line4.digest false false 0) ∧ line4.allotment[(3 : Byte).toNat]? ≠ some 3) :=
  ⟨⟨sound (by simp [samples]), by simp only [takes_iff]; decide +kernel⟩,
    ⟨sound_station5, by simp only [takes_iff]; decide +kernel⟩⟩

/-- Slot 2's OPEN at its expected end, 48 byte times early and 48 late, slot 0's 48 early, with a cold contest, at the cold
start, and slot 0's over a round end, where the open grace is 100, as far as it goes. -/
theorem witness_OpenInStepAlignsTheClock :
    (station5.Sound ∧ youngGrant.Sound ∧ wide.Sound ∧ coldNow.Sound) ∧ station5.profile = some line4 ∧
      station5.station.clockMode = .running ∧ station5.takes ⟨3, 2, 700⟩ (.opn line4.digest true false 0) ∧
      youngGrant.takes ⟨3, 2, 700⟩ (.opn line4.digest true false 0) ∧
      station5.clock.syncLoss = false ∧ youngGrant.clock.syncLoss = false ∧ 2 < line4.slots ∧ line4.allotment[2]? = some 3 ∧
      station5.rosterOf 3 ≠ none ∧ line4.grace + 20 < line4.slotLength ∧ 2 * line4.grace < line4.round ∧
      1108 % line4.round + 0 = line4.settle + 2 * line4.slotLength + 20 ∧
      (1060 % line4.round + 48 = line4.settle + 2 * line4.slotLength + 20 ∧ 48 ≤ line4.grace) ∧
      1156 % line4.round = line4.settle + 2 * line4.slotLength + 20 + 48 ∧
      36 % line4.round + 48 = line4.settle + 0 * line4.slotLength + 20 ∧
      ((youngGrant.window 4).coldMark ≠ none ∧ (3 : Byte).toNat < line4.station.toNat) ∧
      (coldNow.profile = some line ∧ coldNow.takes header (.opn line.digest true false 0) ∧ coldNow.rosterOf 5 ≠ none ∧
        coldNow.clock.syncLoss = false ∧ line.allotment[0]? = some 5 ∧ line.grace + 20 < line.slotLength ∧
        2 * line.grace < line.round) ∧
      (let p := { line4 with grace := 100 }
       wide.profile = some p ∧ wide.takes ⟨3, 0, 700⟩ (.opn p.digest false false 0) ∧ p.allotment[0]? = some 3 ∧
         p.grace + 20 < p.slotLength ∧ 2 * p.grace < p.round ∧
         2160 % p.round + 100 = p.settle + 0 * p.slotLength + 20 + p.round ∧ 100 ≤ p.grace) :=
  ⟨⟨sound_station5, sound (by simp [samples]), sound (by simp [samples]), sound (by simp [samples])⟩,
    by simp only [takes_iff]; decide +kernel⟩

theorem witness_OpenOutOfStepLeavesTheClock :
    (station5.Sound ∧ youngGrant.Sound) ∧ (∀ j : Int, (line4.grace : Int) < |line4.settle + (3 : Byte).toNat * line4.slotLength +
        20 + j * line4.round - (1750 % line4.round : Nat)|) ∧
      (∀ j : Int, (line4.grace : Int) < |line4.settle + (2 : Byte).toNat * line4.slotLength +
        20 + j * line4.round - (1157 % line4.round : Nat)|) ∧
      station5.profile = some line4 ∧ station5.station.clockMode = .running ∧
      station5.takes ⟨6, 3, 700⟩ (.opn line4.digest false false 0) ∧ 3 < line4.slots ∧ line4.allotment[3]? = some 6 ∧
      youngGrant.takes ⟨3, 2, 700⟩ (.opn line4.digest true false 0) :=
  ⟨⟨sound_station5, sound (by simp [samples])⟩,
    fun j => by show (48 : Int) < |64 + 3 * 512 + 20 + j * 2176 - 1750|; rw [lt_abs]; omega,
    fun j => by show (48 : Int) < |64 + 2 * 512 + 20 + j * 2176 - 1157|; rw [lt_abs]; omega,
    by simp only [takes_iff]; decide +kernel⟩

/-- A FOREIGN sender, the account of section 7.7, and no account. -/
theorem witness_CloseIsCheckedAgainstItsAccount :
    (foreign3.Sound ∧ foreign3.takes ⟨3, 2, 700⟩ (.close 2 3 144) ∧ foreign3.foreignSender 3 = true) ∧
      (accounted3.Sound ∧ accounted3.profile = some line4 ∧ accounted3.station.takesPart = true ∧
        accounted3.takes ⟨3, 2, 700⟩ (.close 2 3 144) ∧ accounted3.accounted ⟨3, 2, 700⟩ account77 ∧
        accounted3.takes ⟨3, 2, 700⟩ (.close 1 1 16) ∧ accounted3.takes ⟨3, 2, 700⟩ (.close 1 2 16)) ∧
      (station5.Sound ∧ station5.takes ⟨3, 2, 700⟩ (.close 0 1 0) ∧ station5.foreignSender 3 = false ∧
        station5.account = none) :=
  ⟨⟨sound (by simp [samples]), by simp only [takes_iff]; decide +kernel⟩,
    ⟨sound (by simp [samples]), by simp only [takes_iff, State.accounted]; decide +kernel⟩,
    ⟨sound_station5, by simp only [takes_iff]; decide +kernel⟩⟩

theorem witness_UpdateIsClaimedOrLost :
    (foreign3.Sound ∧ foreign3.takes ⟨3, 2, 700⟩ (.upd 4 15 15 [1]) ∧ foreign3.foreignSender 3 = true) ∧
      (accounted3.Sound ∧ accounted3.takes ⟨3, 2, 700⟩ (.upd 4 15 15 [1]) ∧
        accounted3.accounted ⟨3, 2, 700⟩ account77 ∧ accounted3.takes ⟨3, 2, 700⟩ (.upd 11 0 0 [1])) ∧
      (station5.Sound ∧ station5.takes ⟨3, 2, 700⟩ (.upd 4 15 15 [1]) ∧ station5.foreignSender 3 = false ∧
        station5.account = none ∧ station5.profile = some line4 ∧ station5.station.takesPart = true) :=
  ⟨⟨sound (by simp [samples]), by simp only [takes_iff]; decide +kernel⟩,
    ⟨sound (by simp [samples]), by simp only [takes_iff, State.accounted]; decide +kernel⟩,
    ⟨sound_station5, by simp only [takes_iff]; decide +kernel⟩⟩

/-- Level 1 to another station, level 7 to all with the corrupt tally at 0, and level 2 with it at 1, one notice or 253
held. -/
theorem witness_NoticeIsDeliveredOrHeld :
    (accounted3.profile = some line4 ∧ accounted3.accounted ⟨3, 2, 700⟩ account77 ∧
        accounted3.takes ⟨3, 2, 700⟩ (.ntc 6 1 0) ∧ (6 : Byte) ≠ line4.station ∧ (1 : BitVec 3).toNat = (0 : Fin 7).val + 1 ∧
        accounted3.takes ⟨3, 2, 700⟩ (.ntc 5 2 0) ∧ account77.corrupt ≠ 0) ∧
      (accounted6.accounted ⟨6, 3, 700⟩ { sender := 6, slot := 3, leaving := false } ∧
        accounted6.takes ⟨6, 3, 700⟩ (.ntc 255 7 0) ∧ (7 : BitVec 3).toNat = (6 : Fin 7).val + 1) ∧
      (let a := { account77 with held := List.replicate 253 ⟨3, 2, 900, 700⟩ }
       manyHeld.accounted ⟨3, 2, 700⟩ a ∧ manyHeld.takes ⟨3, 2, 700⟩ (.ntc 5 2 0) ∧ ¬ a.held.length < 253) := by
  simp only [takes_iff, State.accounted]; decide +kernel

theorem witness_FramesForOthersAreCountedAlone :
    (foreign3.profile = some line4 ∧ foreign3.station.takesPart = true ∧ foreign3.takes ⟨3, 2, 700⟩ (.ntc 255 2 900) ∧
        foreign3.foreignSender 3 = true) ∧
      (station5.takes ⟨3, 2, 700⟩ (.cabt 6 4) ∧ station5.account = none) ∧
      (accounted3.takes ⟨3, 2, 700⟩ (.cend 6 4 1) ∧ accounted3.accounted ⟨3, 2, 700⟩ account77 ∧
        (6 : Byte) ≠ line4.station) := by
  simp only [takes_iff, State.accounted]; decide +kernel

/-- A request for the whole window is offered; one for a window that is not CURRENT is ignored. -/
theorem witness_RequestIsOfferedOrIgnored :
    (accounted5.Sound ∧ accounted5.profile = some line ∧ accounted5.takes header (.creq 0 1 0 3) ∧
        accounted5.accounted header { sender := 5, slot := 0, leaving := false } ∧ accounted5.station = .active ∧
        0 < line.copyShare ∧ (accounted5.window 0).currency = .current ∧ (accounted5.window 0).inExtent 3 = true) ∧
      (accounted3.Sound ∧ accounted3.takes ⟨3, 2, 700⟩ (.creq 11 1 0 0) ∧ (accounted3.window 11).currency ≠ .current) :=
  ⟨⟨sound (by simp [samples]), by simp only [takes_iff, State.accounted]; decide +kernel⟩,
    ⟨sound (by simp [samples]), by simp only [takes_iff]; decide +kernel⟩⟩

theorem witness_OffersEndOnWordFromTheLine :
    accounted5.Sound ∧ accounted5.profile = some line ∧
      accounted5.accounted header { sender := 5, slot := 0, leaving := false } ∧
      accounted5.takes header (.ccan line.station 0) ∧ accounted5.takes header (.cbeg 5 0 0 1) ∧ (5 : Byte) ≠ line.station :=
  ⟨sound (by simp [samples]), by simp only [takes_iff, State.accounted]; decide +kernel⟩

/-- As `accounted6`, with this catch-up record. -/
def trying (c : Option CatchUp) : State := { accounted6 with catchUp := c }

/-- No record, a record in REQUESTED, and one in COPYING from the sender, from another donor, and of another window. -/
theorem witness_CopyBeginsWithTheFirstDonor :
    ∀ c ∈ [none, some { window := 7, attempt := 2, phase := .requested 4 },
        some { window := 7, attempt := 2, phase := .copying 6 3 [] },
        some { window := 7, attempt := 2, phase := .copying 3 3 [] },
        some { window := 11, attempt := 1, phase := .requested 4 }],
      (trying c).profile = some line4 ∧ (trying c).takes ⟨6, 3, 700⟩ (.cbeg line4.station 7 0 15) ∧
        (trying c).accounted ⟨6, 3, 700⟩ { sender := 6, slot := 3, leaving := false } := by
  simp only [takes_iff, State.accounted]; decide +kernel

theorem witness_CopiedBlockIsAdmittedFromTheDonor :
    accounted6.profile = some line4 ∧ accounted6.takes ⟨6, 3, 700⟩ (.cblk line4.station 7 15 (List.replicate 16 1)) ∧
      accounted6.accounted ⟨6, 3, 700⟩ { sender := 6, slot := 3, leaving := false } ∧
      accounted3.takes ⟨3, 2, 700⟩ (.cblk line4.station 7 15 (List.replicate 16 1)) ∧
      accounted3.accounted ⟨3, 2, 700⟩ account77 := by
  simp only [takes_iff, State.accounted]; decide +kernel

/-- The donor's CEND with a block missing and with all received, the donor's CABT, and a stray's. -/
theorem witness_CopyEndsOnTheDonorsWord :
    (accounted6.Sound ∧ accounted6.profile = some line4 ∧
        accounted6.accounted ⟨6, 3, 700⟩ { sender := 6, slot := 3, leaving := false } ∧
        accounted6.catchUp = some { window := 7, attempt := 2, phase := .copying 6 3 [] } ∧
        accounted6.takes ⟨6, 3, 700⟩ (.cend line4.station 7 16) ∧ accounted6.takes ⟨6, 3, 700⟩ (.cabt line4.station 7)) ∧
      (let s := { accounted5 with
          serving := [], windows := table .catchingUp .current
          catchUp := some { window := 0, attempt := 1, phase := .copying 5 1 [0, 1, 2, 3] } }
       s.Sound ∧ s.takes header (.cend line.station 0 4) ∧
         ∀ i : Nat, i < (s.window 0).heldCount → (s.window 0).firstHeld + i ∈ [0, 1, 2, 3]) ∧
      (accounted3.Sound ∧ accounted3.accounted ⟨3, 2, 700⟩ account77 ∧
        accounted3.catchUp = some { window := 7, attempt := 2, phase := .copying 6 3 [] } ∧
        accounted3.takes ⟨3, 2, 700⟩ (.cend line4.station 7 16)) :=
  ⟨⟨sound (by simp [samples]), by simp only [takes_iff, State.accounted]; decide +kernel⟩,
    ⟨sound_of_test (by decide +kernel), by simp only [takes_iff]; decide +kernel⟩,
    ⟨sound (by simp [samples]), by simp only [takes_iff, State.accounted]; decide +kernel⟩⟩

/-- A slot left with its frame on the line. -/
def abandoned : Filling := { slot := 1, round := 7, count := 22, step := .abandoned }

/-- The slot in progress, the second loss, and a slot abandoned or gone. -/
theorem witness_OwnOpenReadbackKeepsTheLine :
    let s := driving (.opn 0x1234 false false 3)
    (s.Sound ∧ s.profile = some line ∧ s.station.takesPart = true ∧
        s.inSlot { slot := 1, round := 7, count := 22, step := .control } ∧
        s.transmitter = some ⟨⟨⟨9, 1, 7⟩, .opn 0x1234 false false 3⟩, 22⟩ ∧ s.openFailures = 0) ∧
      (let u := { s with openFailures := 1 }
       u.Sound ∧ u.station.takesPart = true ∧ u.openFailures ≠ 0) ∧
      (let a := { sendingBody listening (.opn 0x1234 false false 3) with filler := some abandoned }
       a.profile = some line ∧ a.transmitter = some ⟨⟨⟨9, 1, 7⟩, .opn 0x1234 false false 3⟩, 22⟩ ∧ a.offSlot ∧
         (sendingBody listening (.opn 0x1234 true false 3)).offSlot) :=
  ⟨⟨sound (by simp [samples]), by unfold State.inSlot; decide +kernel⟩,
    ⟨sound_of_test (by decide +kernel), by decide⟩, by simp only [offSlot_iff]; decide⟩

theorem witness_ColdOpenReadbackStartsTheLine :
    coldOpening.profile = some line ∧ coldOpening.station = .coldStart ∧
      coldOpening.inSlot { slot := 1, round := 0, step := .opened } ∧
      coldOpening.transmitter = some ⟨⟨⟨9, 1, 7⟩, .opn 0x1234 true false 3⟩, 22⟩ ∧ coldOpening.leavePending = false ∧
      { coldOpening with leavePending := true }.inSlot { slot := 1, round := 0, step := .opened } := by
  unfold State.inSlot; decide +kernel

theorem witness_OutboundReadbackSettlesTheEntry :
    let u := driving (.upd 0 0 2 [1])
    let n := driving (.ntc 255 2 900)
    (u.Sound ∧ u.transmitter = some ⟨⟨⟨9, 1, 7⟩, .upd 0 0 2 [1]⟩, 22⟩ ∧
        u.inSlot { slot := 1, round := 7, count := 22, step := .control }) ∧
      (n.Sound ∧ n.transmitter = some ⟨⟨⟨9, 1, 7⟩, .ntc 255 2 900⟩, 22⟩ ∧
        n.inSlot { slot := 1, round := 7, count := 22, step := .control }) ∧
      (let a := { sendingBody listening (.upd 0 0 2 [1]) with filler := some abandoned }
       a.Sound ∧ a.transmitter = some ⟨⟨⟨9, 1, 7⟩, .upd 0 0 2 [1]⟩, 22⟩ ∧ a.offSlot ∧
         (sendingBody listening (.ntc 255 2 900)).Sound ∧ (sendingBody listening (.ntc 255 2 900)).offSlot) :=
  ⟨⟨sound (by simp [samples]), by unfold State.inSlot; decide +kernel⟩,
    ⟨sound (by simp [samples]), by unfold State.inSlot; decide +kernel⟩,
    ⟨sound_of_test (by decide +kernel), rfl, offSlot_iff.2 rfl, sound_of_test (by decide +kernel), offSlot_iff.2 rfl⟩⟩

theorem witness_CatchUpReadbackActsByKind :
    (driving (.creq 0 1 0 3)).profile = some line ∧
      (driving (.creq 0 1 0 3)).transmitter = some ⟨⟨⟨9, 1, 7⟩, .creq 0 1 0 3⟩, 22⟩ ∧
      (driving (.cbeg 5 0 0 3)).transmitter = some ⟨⟨⟨9, 1, 7⟩, .cbeg 5 0 0 3⟩, 22⟩ ∧
      (driving (.ccan 5 0)).transmitter = some ⟨⟨⟨9, 1, 7⟩, .ccan 5 0⟩, 22⟩ := by decide

/-- The LEAVING slot's CLOSE, a pending leave's in COLD_START, a plain one, alone and with a slot start kept, and one whose
slot was abandoned. -/
theorem witness_CloseReadbackEndsTheSlot :
    let last : Filling := { slot := 1, round := 7, leaving := true, step := .closing }
    let kept : Filling := { slot := 1, round := 7, count := 250, step := .closing, deferred := some ⟨1, 8, 200⟩ }
    let closing' (s : State) (f : Filling) : State := { sendingBody s (.close 0 0 0) with filler := some f }
    ((closing' leaving last).profile = some line ∧ (closing' leaving last).inSlot last ∧
        (closing' leaving last).transmitter = some ⟨⟨⟨9, 1, 7⟩, .close 0 0 0⟩, 22⟩ ∧ leaving.station = .leaving) ∧
      (let s := { closing' coldStart last with leavePending := true }
       s.inSlot last ∧ s.station = .coldStart ∧ s.leavePending = true) ∧
      ((closing' active kept).inSlot kept ∧ active.station ≠ .leaving ∧ active.station ≠ .coldStart) ∧
      ((closing' listening abandoned).profile = some line ∧ (closing' listening abandoned).offSlot ∧
        (sendingBody standoff (.close 0 0 0)).offSlot) := by
  unfold State.inSlot; simp only [offSlot_iff]; decide +kernel

theorem witness_SlotBoundariesOpenAndCloseOwnSlots :
    (active.profile = some line ∧ active.station.clockMode = .running ∧ 1 < line.slots ∧
        line.allotment[0]? ≠ some line.station ∧ line.allotment[1]? = some line.station ∧
        active.lastOpened ≠ some (active.clock.round, 1) ∧ active.filler = none) ∧
      (filling.lastOpened = some (filling.clock.round, 1) ∧
        filling.filler = some { slot := 1, round := 7, count := 22, step := .control } ∧ filling.transmitter = none) ∧
      (let s := { filling with lastOpened := some (6, 1) }
       s.lastOpened ≠ some (s.clock.round, 1) ∧
         (s.movedTo 272).filler = some { slot := 1, round := 7, count := 22, step := .control }) ∧
      (filling.movedTo (line.settle + (1 + 1) * line.slotLength)).filler =
        some { slot := 1, round := 7, count := 256, step := .control } := by decide +kernel

/-- Each step of the slot, with and without room, and a turn inside the serving list. -/
theorem witness_SlotFrameOfferFollowsTheSteps :
    let r1 : ServingRecord := { joiner := 5, window := 0, first := 0, last := 1, phase := .serving 1, beginRound := 6 }
    (filling.ServingAgrees ∧ filling.WithinLimits ∧ filling.profile = some line ∧ filling.TurnOrder [] ∧
        filling.filler = some { slot := 1, round := 7, count := 22, step := .control } ∧ filling.transmitter = none ∧
        filling.copyRead = none ∧ roomFor line { slot := 1, round := 7, count := 214, step := .control } 20 0 ∧
        ¬ roomFor line { slot := 1, round := 7, count := 215, step := .control } 20 0) ∧
      (reading.ServingAgrees ∧ reading.WithinLimits ∧ reading.TurnOrder [r1] ∧ reading.copyRead ≠ none) ∧
      (let s := { reading with copyRead := none }
       s.ServingAgrees ∧ s.WithinLimits ∧ s.TurnOrder [r1] ∧ s.transmitter = none ∧
         [r1].find? (fun r => decide (r.phase ≠ .offered)) = some r1 ∧
         roomFor line { slot := 1, round := 7, count := 24, step := .copy } 80 0 ∧
         (∀ w block first words, FrameClaim.update none w block first words ∉ s.frameClaims)) ∧
      (let s := { reading with copyRead := none, frameClaims := [.update none 0 1 0 [1]] }
       s.ServingAgrees ∧ s.WithinLimits ∧ s.TurnOrder [r1] ∧ FrameClaim.update none 0 1 0 [1] ∈ s.frameClaims) :=
  ⟨⟨(sound (s := filling) (by simp [samples])).serving, limits_of_empty rfl rfl (by decide) rfl rfl rfl rfl, rfl, .inl ⟨rfl, rfl⟩,
      by unfold roomFor; decide +kernel⟩,
    ⟨(sound (s := reading) (by simp [samples])).serving, limits_reading, .inr ⟨[], _, [], rfl, rfl, rfl⟩, by decide⟩,
    ⟨(sound_of_test (by decide +kernel)).serving, limits_of_empty rfl rfl (by decide) rfl rfl rfl rfl,
      .inr ⟨[], _, [], rfl, rfl, rfl⟩, rfl, rfl, by unfold roomFor; decide +kernel, by intro _ _ _ _ h; cases h⟩,
    ⟨(sound_of_test (by decide +kernel)).serving, limits_of_empty rfl rfl (by decide) rfl rfl rfl rfl,
      .inr ⟨[], _, [], rfl, rfl, rfl⟩, by decide⟩⟩

theorem witness_CopyReadSendsTheNextBlock :
    let r1 : ServingRecord := { joiner := 5, window := 0, first := 0, last := 1, phase := .serving 1, beginRound := 6 }
    reading.ServingAgrees ∧ reading.profile = some line ∧
      reading.filler = some { slot := 1, round := 7, count := 24, step := .copy } ∧ reading.serving = [] ++ r1 :: [] ∧
      reading.copyRead = some (r1.joiner, r1.window) ∧ r1.phase = .serving 1 ∧
      (reading.window r1.window).storeBlock 1 = some 1 ∧ reading.frameClaims = [] ∧ reading.transmitter = none ∧
      roomFor line { slot := 1, round := 7, count := 154, step := .copy } 80 0 ∧
      ¬ roomFor line { slot := 1, round := 7, count := 155, step := .copy } 80 0 ∧ ¬ 1 < r1.last ∧
      { reading with frameClaims := [.copied 0 0 []] }.frameClaims ≠ [] :=
  ⟨(sound (s := reading) (by simp [samples])).serving, by unfold roomFor; decide +kernel⟩

theorem witness_RoundEndActsInEachBlock :
    (youngGrant.Sound ∧ youngGrant.profile = some line4 ∧ youngGrant.station.clockMode = .running ∧ youngGrant.station = .active ∧
        (youngGrant.window 4).coldMark = some 4) ∧
      (leaving.Sound ∧ leaving.profile = some line ∧ leaving.station.clockMode = .running ∧ leaving.station ≠ .active) ∧
      (serving.Sound ∧ serving.profile = some line ∧ serving.station = .active) :=
  ⟨⟨sound (by simp [samples]), by decide +kernel⟩, ⟨sound (by simp [samples]), by decide⟩,
    ⟨sound (by simp [samples]), by decide⟩⟩

theorem witness_SyncLossTakesTheStationOffTheLine :
    (station5.profile = some line4 ∧ station5.station.takesPart = true ∧ station5.clock.syncLoss = false) ∧
      { station5 with clock := { station5.clock with syncLoss := true } }.clock.syncLoss = true ∧
      (listening.profile = some line ∧ listening.station.takesPart = false) := by decide

/-- A peer silent up to the limit, alone and with another, one not yet, and a station that takes no part. -/
theorem witness_SilentPeersDepart :
    let s := { active with roster := [{ station := 5, state := .present, silent := 1 }] }
    (s.Sound ∧ s.profile = some line ∧ s.station.takesPart = true ∧
        s.rosterOf 5 = some { station := 5, state := .present, silent := 1 } ∧ 1 = line.silenceLimit) ∧
      (let s := { station5 with roster := [{ station := 3, state := .present, silent := 3 },
          { station := 6, state := .present, silent := 3, current := 2048 }] }
       s.Sound ∧ s.rosterOf 3 = some { station := 3, state := .present, silent := 3 } ∧
         s.rosterOf 6 = some { station := 6, state := .present, silent := 3, current := 2048 } ∧ 3 = line4.silenceLimit) ∧
      (active.Sound ∧ active.rosterOf 5 = some { station := 5, state := .present, lastHeard := some 7, current := 3 } ∧
        0 ≠ line.silenceLimit) ∧
      (listening.Sound ∧ listening.profile = some line ∧ listening.station.takesPart = false) :=
  ⟨⟨sound_of_test (by decide +kernel), by decide +kernel⟩, ⟨sound_of_test (by decide +kernel), by decide +kernel⟩,
    ⟨sound_active, by decide +kernel⟩, ⟨sound (by simp [samples]), by decide⟩⟩

/-- An armed account and none; a wait timer and a stall timer at 0, and timers that run. -/
theorem witness_AccountAndAttemptTimersExpire :
    (let s := { active with account := some { sender := 5, slot := 0, leaving := false, armed := [1] } }
     s.Sound ∧ s.profile = some line ∧ s.station.clockMode = .running ∧ 1 < line.slots) ∧
      (let s := { requesting with catchUp := some { window := 0, attempt := 1, phase := .requested 0 } }
       s.Sound ∧ s.catchUp = some { window := 0, attempt := 1, phase := .requested 0 }) ∧
      (let s := { copying with catchUp := some { window := 0, attempt := 1, phase := .copying 5 0 [0] } }
       s.Sound ∧ s.catchUp = some { window := 0, attempt := 1, phase := .copying 5 0 [0] }) ∧
      (active.Sound ∧ active.catchUp = none) ∧ requesting.Sound ∧ copying.Sound :=
  ⟨⟨sound_of_test (by decide +kernel), by decide⟩, ⟨sound_of_test (by decide +kernel), rfl⟩,
    ⟨sound_of_test (by decide +kernel), rfl⟩, ⟨sound_active, rfl⟩, sound (by simp [samples]), sound (by simp [samples])⟩

/-- Each timer at 0, the foreign mark off and on, and each timer still running. -/
theorem witness_LineTimersMoveTheStation :
    (let s := timed { quiet := some 0, join := some 0 }
     s.profile = some line ∧ s.station = .listening ∧ s.clock.quiet = some 0 ∧ s.clock.join = some 0 ∧
       s.clock.foreignMark = false ∧ 1 < line.slots ∧ line.allotment[1]? = some line.station ∧
       line.allotment[0]? ≠ some line.station) ∧
      (timed { join := some 0, foreignMark := true }).clock.foreignMark = true ∧
      (let s := { standoff with clock := { standoff := some 0 } }
       s.profile = some line ∧ s.station = .standoff ∧ s.clock.standoff = some 0) ∧
      (listening.clock.quiet ≠ some 0 ∧ listening.clock.join ≠ some 0 ∧ standoff.clock.standoff ≠ some 0 ∧
        standoff.station ≠ .listening) := by decide

/-- A state with a command waiting that meets what every step keeps. -/
def asked : State := { active with pending := [.stationStatus 1] }

theorem witness_EveryStepKeeps : asked.Canonical ∧ asked.WithinLimits ∧ asked.Sound ∧ ∃ t, step asked = .next t :=
  ⟨⟨rfl, rfl, by intro c h; cases h⟩, limits_of_empty rfl rfl (by decide) rfl rfl rfl rfl, sound_of_test (by decide +kernel),
    ⟨_, rfl⟩⟩

/-- The spans of the sample windows end in the store. -/
theorem witness_EveryStepStaysInTheStore : asked.SpansInStore where
  spans := by
    intro w h hw
    have key : ∀ w : WindowNo, ((asked.window w).holding.all fun h => decide (h.base + h.count ≤ 8192)) = true := by
      decide +kernel
    have := key w
    rw [hw] at this
    simpa using this
  claims := by intro c hc; cases hc
  initPass := by intro b hb; cases hb

/-- An UPD of one word and of sixteen, a CBLK, and a frame of no words that is well-formed as an own one. -/
theorem witness_FrameBytesAreReadBack :
    (1 ≤ [(5 : Word)].length ∧ (List.replicate 16 (5 : Word)).length ≤ 16 ∧ (List.replicate 16 (5 : Word)).length = 16) ∧
      frameIn (Frame.covered ⟨header, .upd 31 15 1023 [5]⟩) = some ⟨header, .upd 31 15 1023 [5]⟩ ∧
      active.malformedOwn ⟨9, 1, 7⟩ (.cabt 5 0) = false := by decide +kernel

end Sys2Proof.Tests
end

/-! The CBEG that names this station as joiner, one equation for each row of R133's table,
with the answer to a stray (R135). -/

namespace Sys2Proof.Proofs

open Sys2Proof Sys2Proof.Machine Sys2Proof.Laws

variable {s : State} {c : CatchUp} {sender : StationNo} {w : WindowNo} {p : Profile}

/-! ## The answer to a stray -/

theorem queueControl_eq (f : FrameBody) : s.queueControl f = { s with control := queued s.control f } := rfl

theorem addOnce_of_not_mem {α : Type} [DecidableEq α] {x : α} {l : List α} (h : x ∉ l) : addOnce x l = l ++ [x] := if_neg h

/-- The state after the record `c` has answered a stray: the sender is cancelled and a CCAN queued to it, unless it was
cancelled before (R135). -/
def strayAnswered (s : State) (c : CatchUp) (sender : StationNo) (w : WindowNo) : State :=
  if sender ∈ c.cancelled then s
  else { s with catchUp := some { c with cancelled := c.cancelled ++ [sender] }
                control := queued s.control (.ccan sender w) }

theorem stray_cbeg_of_none (hc : s.catchUp = none) : s.stray sender w true = s.queueControl (.ccan sender w) := by
  simp only [State.stray, hc, if_true]

theorem stray_of_some (isCbeg : Bool) (hc : s.catchUp = some c) :
    s.stray sender w isCbeg = strayAnswered s c sender w := by
  unfold strayAnswered
  by_cases hm : sender ∈ c.cancelled
  · simp only [State.stray, hc, if_pos hm]
  · simp only [State.stray, hc, if_neg hm, queueControl_eq, addOnce_of_not_mem hm]

/-! ## The table of R133 -/

theorem copyStall_of_profile (hp : s.profile = some p) : s.copyStall = p.copyStall := by
  simp only [State.copyStall, hp]

theorem isSelf_of_profile (hp : s.profile = some p) : s.isSelf p.station = true := by
  simp only [State.isSelf, hp, decide_true]

theorem joinerCbeg_of_none (hc : s.catchUp = none) : s.joinerCbeg sender w = s.queueControl (.ccan sender w) := by
  simp only [State.joinerCbeg, hc]
  exact stray_cbeg_of_none hc

theorem joinerCbeg_otherWindow (hc : s.catchUp = some c) (hw : c.window ≠ w) :
    s.joinerCbeg sender w = strayAnswered s c sender w := by
  simp only [State.joinerCbeg, hc, if_pos hw]
  exact stray_of_some true hc

/-- In REQUESTED the sender is named the donor, unless the attempt has cancelled it. -/
theorem joinerCbeg_requested {wait : Nat} (hp : s.profile = some p) (hc : s.catchUp = some c) (hw : c.window = w)
    (hph : c.phase = .requested wait) :
    s.joinerCbeg sender w =
      if sender ∈ c.cancelled then s
      else { s with catchUp := some { c with phase := .copying sender p.copyStall [] } } := by
  simp only [State.joinerCbeg, hc, if_neg (not_not_intro hw), hph, copyStall_of_profile hp]

/-- In COPYING the donor's own CBEG starts its copy again. -/
theorem joinerCbeg_fromDonor {stall : Nat} {received : List Nat} (hp : s.profile = some p) (hc : s.catchUp = some c)
    (hw : c.window = w) (hph : c.phase = .copying sender stall received) :
    s.joinerCbeg sender w = { s with catchUp := some { c with phase := .copying sender p.copyStall [] } } := by
  simp only [State.joinerCbeg, hc, if_neg (not_not_intro hw), hph, if_true, copyStall_of_profile hp]

theorem joinerCbeg_besideDonor {donor : StationNo} {stall : Nat} {received : List Nat} (hc : s.catchUp = some c)
    (hw : c.window = w) (hph : c.phase = .copying donor stall received) (hd : donor ≠ sender) :
    s.joinerCbeg sender w = strayAnswered s c sender w := by
  simp only [State.joinerCbeg, hc, if_neg (not_not_intro hw), hph, if_neg hd]
  exact stray_of_some true hc

/-! ## The reception -/

/-- Under its sender's account the CBEG is counted and handed to the Resync Unit (R117, R126). -/
theorem exec_cbegReceived_joiner {h : Header} {first last : BitVec 10} {a : Account} (hp : s.profile = some p)
    (ht : s.takes h (.cbeg p.station w first last)) (ha : s.accounted h a) :
    exec (.cbegReceived h p.station w first last) s = .next ((s.counted p a).joinerCbeg h.sender w) := by
  have hpart : (s.heard p).station.takesPart = true := ha.1
  have hself : (s.counted p a).isSelf p.station = true := isSelf_of_profile hp
  show execCbegReceived h p.station w first last s = _
  unfold execCbegReceived
  rw [receive_takes _ hp ht, applying_takes _ hpart, underAccount_accounted _ ha, if_pos hself]

/-- Settles O39: the rows of R133's table are the equations of `joinerCbeg`, in the state that has counted the frame. -/
theorem copyBeginsWithTheFirstDonor : Obligations.CopyBeginsWithTheFirstDonor := by
  intro s p h w first last a hp ht ha
  have hp' : (s.counted p a).profile = some p := hp
  rw [exec_cbegReceived_joiner hp ht ha]
  congr 1
  cases hc : s.catchUp with
  | none =>
    have hc' : (s.counted p a).catchUp = none := hc
    rw [joinerCbeg_of_none hc', queueControl_eq]
    rfl
  | some c =>
    have hc' : (s.counted p a).catchUp = some c := hc
    obtain ⟨cw, attempt, phase, cancelled⟩ := c
    dsimp only
    by_cases hw : cw = w
    · rw [if_pos hw]
      cases phase with
      | requested wait => exact joinerCbeg_requested hp' hc' hw rfl
      | copying donor stall received =>
        dsimp only
        by_cases hd : donor = h.sender
        · subst hd
          rw [if_pos rfl]
          exact joinerCbeg_fromDonor hp' hc' hw rfl
        · rw [if_neg hd]
          exact joinerCbeg_besideDonor hc' hw rfl hd
    · rw [if_neg hw]
      exact joinerCbeg_otherWindow hc' hw

end Sys2Proof.Proofs

/-! The CREQ that is answered with an offer, and the CCAN and the other donor's CBEG that end one (R146, R149, R150).  Each of
the three ends the records that pass a test, of which the list holds one at most, for no two records have the same pair. -/

namespace Sys2Proof.Proofs

open Sys2Proof Sys2Proof.Machine Sys2Proof.Laws

variable {s : State} {joiner : StationNo} {w : WindowNo} {p : Profile} {h : Header} {a : Account}

/-! ## The record of a pair -/

/-- Where no two elements pass the test, the first that passes is all that a filter keeps. -/
theorem filter_eq_find?_toList {α : Type} {test : α → Bool} {l : List α}
    (hl : l.Pairwise fun x y => ¬ (test x = true ∧ test y = true)) : l.filter test = (l.find? test).toList := by
  induction l with
  | nil => rfl
  | cons x l ih =>
    obtain ⟨hx, hl⟩ := List.pairwise_cons.1 hl
    by_cases ht : test x = true
    · have hrest : l.filter test = [] := List.filter_eq_nil_iff.2 fun y hy hty => hx y hy ⟨ht, hty⟩
      rw [List.filter_cons_of_pos ht, List.find?_cons_of_pos ht, hrest]
      rfl
    · rw [List.filter_cons_of_neg ht, List.find?_cons_of_neg ht, ih hl]

/-- The records of a pair are the one that `servingOf` finds (R145). -/
theorem filter_pair_eq_servingOf (hn : (s.serving.map ServingRecord.pair).Nodup) :
    s.serving.filter (fun r => decide (r.joiner = joiner ∧ r.window = w)) = (s.servingOf joiner w).toList := by
  have hone : s.serving.Pairwise fun x y =>
      ¬ (decide (x.joiner = joiner ∧ x.window = w) = true ∧ decide (y.joiner = joiner ∧ y.window = w) = true) := by
    refine (List.pairwise_map.1 hn).imp fun hne ⟨hx, hy⟩ => hne ?_
    obtain ⟨hxj, hxw⟩ := of_decide_eq_true hx
    obtain ⟨hyj, hyw⟩ := of_decide_eq_true hy
    exact Prod.ext (hxj.trans hyj.symm) (hxw.trans hyw.symm)
  rw [filter_eq_find?_toList hone]
  simp only [State.servingOf, Bool.decide_and]

theorem decide_phase_eq_offered (r : ServingRecord) : decide (r.phase = .offered) = !r.isServing := by
  unfold ServingRecord.isServing
  cases r.phase <;> rfl

/-! ## The endings -/

theorem clearOffer_eq_foldl (hn : (s.serving.map ServingRecord.pair).Nodup) :
    s.clearOffer joiner w =
      (s.serving.filter fun r => decide (r.joiner = joiner ∧ r.window = w)).foldl State.dropServing s := by
  rw [filter_pair_eq_servingOf hn]
  unfold State.clearOffer
  cases s.servingOf joiner w <;> rfl

theorem clearOffer_ended (hn : (s.serving.map ServingRecord.pair).Nodup) :
    RecordsEnded (fun r => decide (r.joiner = joiner ∧ r.window = w)) false s (s.clearOffer joiner w) := by
  rw [clearOffer_eq_foldl hn]
  exact recordsEnded _ false hn

/-- The OFFERED records of a pair are its record, where that one is not SERVING. -/
theorem filter_offered_eq_servingOf (hn : (s.serving.map ServingRecord.pair).Nodup) :
    s.serving.filter (fun r => decide (r.joiner = joiner ∧ r.window = w ∧ r.phase = .offered)) =
      (s.servingOf joiner w).toList.filter fun r => !r.isServing := by
  rw [← filter_pair_eq_servingOf hn, List.filter_filter]
  congr 1
  funext r
  rw [← decide_phase_eq_offered, ← Bool.decide_and]
  exact decide_eq_decide.2 (and_assoc.symm.trans and_comm)

theorem withdrawOffer_eq_foldl (hn : (s.serving.map ServingRecord.pair).Nodup) :
    s.withdrawOffer joiner w = (s.serving.filter fun r =>
      decide (r.joiner = joiner ∧ r.window = w ∧ r.phase = .offered)).foldl State.dropServing s := by
  rw [filter_offered_eq_servingOf hn]
  unfold State.withdrawOffer
  cases s.servingOf joiner w with
  | none => rfl
  | some r => cases hr : r.isServing <;> simp [hr]

theorem withdrawOffer_ended (hn : (s.serving.map ServingRecord.pair).Nodup) :
    RecordsEnded (fun r => decide (r.joiner = joiner ∧ r.window = w ∧ r.phase = .offered)) false s
      (s.withdrawOffer joiner w) := by
  rw [withdrawOffer_eq_foldl hn]
  exact recordsEnded _ false hn

/-! ## The offer -/

theorem mayOffer_iff {first last : Nat} (hp : s.profile = some p) :
    s.mayOffer w first last = true ↔ s.station = .active ∧ 0 < p.copyShare ∧ (s.window w).currency = .current ∧
      (s.window w).inExtent first = true ∧ (s.window w).inExtent last = true := by
  simp only [State.mayOffer, hp, Bool.and_eq_true, decide_eq_true_eq, and_assoc]

theorem createOffer_eq {first last : BitVec 10} :
    s.createOffer joiner w first last =
      if s.serving.length < 4 then
        { s with
          serving := s.serving ++ [{ joiner, window := w, first := first.toNat, last := last.toNat, phase := .offered,
                                     beginRound := s.clock.round }]
          control := queued s.control (.cbeg joiner w first last) }
      else s := rfl

/-! ## The receptions -/

/-- A frame taken under its sender's account is counted and acted on (R117, R126). -/
theorem receive_underAccount {b : FrameBody} (act : State → State) (hp : s.profile = some p) (ht : s.takes h b)
    (ha : s.accounted h a) :
    (s.receive h b fun s => s.applying fun s => s.underAccount h act) = act (s.counted p a) := by
  have hpart : (s.heard p).station.takesPart = true := ha.1
  rw [receive_takes _ hp ht, applying_takes _ hpart, underAccount_accounted _ ha]

theorem exec_creqReceived {attempt : BitVec 3} {first last : BitVec 10} (hp : s.profile = some p)
    (ht : s.takes h (.creq w attempt first last)) (ha : s.accounted h a) :
    exec (.creqReceived h w attempt first last) s = .next ((s.counted p a).takeCreq h.sender w first last) :=
  congrArg Host.Outcome.next (receive_underAccount _ hp ht ha)

theorem exec_ccanReceived_self (hp : s.profile = some p) (ht : s.takes h (.ccan p.station w)) (ha : s.accounted h a) :
    exec (.ccanReceived h p.station w) s = .next ((s.counted p a).takeCcan h.sender w) := by
  have hself : (s.counted p a).isSelf p.station = true := isSelf_of_profile hp
  refine congrArg Host.Outcome.next ((receive_underAccount _ hp ht ha).trans ?_)
  exact if_pos hself

theorem exec_cbegReceived_other {first last : BitVec 10} (hp : s.profile = some p)
    (ht : s.takes h (.cbeg joiner w first last)) (ha : s.accounted h a) (hj : joiner ≠ p.station) :
    exec (.cbegReceived h joiner w first last) s = .next ((s.counted p a).withdrawOffer joiner w) := by
  have hother : ¬ (s.counted p a).isSelf joiner = true := by
    have hp' : (s.counted p a).profile = some p := hp
    simpa only [State.isSelf, hp', decide_eq_true_eq] using hj.symm
  refine congrArg Host.Outcome.next ((receive_underAccount _ hp ht ha).trans ?_)
  exact if_neg hother

/-- Settles O37: the conditions of R146 are those of `mayOffer`; the pair's older record ends before the offer is made. -/
theorem requestIsOfferedOrIgnored : Obligations.RequestIsOfferedOrIgnored := by
  intro s p h w attempt first last a hs hp ht ha
  have hmay := mayOffer_iff (s := s.counted p a) (w := w) (first := first.toNat) (last := last.toNat) hp
  have hside := clearOffer_side (s.counted p a) h.sender w
  rw [exec_creqReceived hp ht ha, State.takeCreq]
  split
  next hoffer =>
    refine ⟨(s.counted p a).clearOffer h.sender w, clearOffer_ended hs.serving.pairs, hside, ?_⟩
    have hround : ((s.counted p a).clearOffer h.sender w).clock.round = s.clock.round := by rw [hside]; rfl
    rw [if_pos (hmay.2 hoffer), createOffer_eq, hround]
  next hignored => rw [if_neg fun hm => hignored (hmay.1 hm)]

/-- Settles O38: each of the two receptions ends the records that pass its test, of which there is one at most. -/
theorem offersEndOnWordFromTheLine : Obligations.OffersEndOnWordFromTheLine := by
  intro s p h joiner w first last a hs hp ha
  have hn : ((s.counted p a).serving.map ServingRecord.pair).Nodup := hs.serving.pairs
  constructor
  · intro ht
    exact ⟨_, exec_ccanReceived_self hp ht ha, clearOffer_ended hn, clearOffer_side _ _ _⟩
  · intro ht hj
    exact ⟨_, exec_cbegReceived_other hp ht ha hj, withdrawOffer_ended hn, withdrawOffer_side _ _ _⟩

end Sys2Proof.Proofs

/-! The rows of the table by what runs them, the memories (the store, the control region and the copy of a CONFIGURE in
flight) that a row can change, and the canonical form that every step keeps (R15, R164, R166). -/

namespace Sys2Proof.Proofs

-- One proof at a time: every further thread of the elaborator counts against the memory limit.
set_option Elab.async false

open Sys2Proof Sys2Proof.Machine Sys2Proof.Laws

variable {s t u : State}

/-! ## The rows, by what runs them -/

/-- A row of the table is a happening on the line, a command of the host, or one of the eleven other rows. -/
inductive RowKind : Instr → Prop
  | line {i : Instr} (h : ofLine i = true) : RowKind i
  | command {i : Instr} {code : Nat} {operands : List Word} {tag : Word}
      (h : ∀ s, exec i s = .next (s.command code operands tag)) : RowKind i
  | reset : RowKind .powerOnReset
  | init : RowKind .initPassStep
  | access (address : BitVec 20) (lanes : Lanes) (access : BusAccess) : RowKind (.hostDataAccess address lanes access)
  | claim : RowKind .hostStoreClaimGranted
  | region (word : BitVec 8) (lanes : Lanes) (value : Word) : RowKind (.controlRegionWrite word lanes value)
  | configured : RowKind .configureComplete
  | applied : RowKind .updateApplied
  | copied : RowKind .copiedBlockWritten
  | copyRead : RowKind .copyReadGranted

/-- A row with a code of section 11.3 fills the command record and issues it. -/
theorem exec_commandRow {i : Instr} {code : Nat} {operands : List Word} {tag : Word}
    (h : commandRow i = some (code, operands, tag)) (s : State) : exec i s = .next (s.command code operands tag) := by
  cases i with
  | configure | join | leave | resetStation | declare | resync | watch | clearWritten | sendNotice | takeNotice
  | setThreshold | fence | takeEvent | windowStatus | rosterStatus | stationStatus =>
    cases h
    rfl
  | _ => cases h

theorem rowKind (i : Instr) : RowKind i := by
  cases i with
  | powerOnReset => exact .reset
  | initPassStep => exact .init
  | hostDataAccess => exact .access _ _ _
  | hostStoreClaimGranted => exact .claim
  | controlRegionWrite => exact .region _ _ _
  | configureComplete => exact .configured
  | updateApplied => exact .applied
  | copiedBlockWritten => exact .copied
  | copyReadGranted => exact .copyRead
  | badCommandCode => exact .command fun _ => rfl
  | configure | join | leave | resetStation | declare | resync | watch | clearWritten | sendNotice | takeNotice
  | setThreshold | fence | takeEvent | windowStatus | rosterStatus | stationStatus =>
    exact .command (exec_commandRow rfl)
  | _ => exact .line rfl

/-- What holds of every command's outcome and of the refusal of any other code holds of the command of a code (R165). -/
theorem runCommand_of_all {P : State → Prop} (code : Nat) (configure : P s.takeConfigure) (join : P s.takeJoin)
    (leave : P s.takeLeave) (reset : P s.takeReset) (declare : P s.takeDeclare) (resync : P s.takeResync)
    (watch : P s.takeWatch) (clearWritten : P s.takeClearWritten) (sendNotice : P s.takeSendNotice)
    (takeNotice : P s.takeTakeNotice) (setThreshold : P s.takeSetThreshold) (fence : P s.takeFence)
    (takeEvent : P s.takeTakeEvent) (windowStatus : P s.takeWindowStatus) (rosterStatus : P s.takeRosterStatus)
    (stationStatus : P s.takeStationStatus) (refused : P (s.complete .badOperand)) : P (s.runCommand code) := by
  unfold State.runCommand
  split <;> assumption

/-! ## What a command leaves of the memories -/

/-- The store and the control region stand, and a CONFIGURE in flight either stands, or has gone, or holds a new copy of the
staging area. -/
structure MemoriesKept (s t : State) : Prop where
  store : t.store = s.store
  region : t.region = s.region
  inFlight : ∀ c, t.inFlight = some c → s.inFlight = some c ∨ c.staged = stagingArea s.region

theorem MemoriesKept.refl (s : State) : MemoriesKept s s := ⟨rfl, rfl, fun _ h => .inl h⟩

theorem MemoriesKept.trans (h1 : MemoriesKept s t) (h2 : MemoriesKept t u) : MemoriesKept s u where
  store := h2.store.trans h1.store
  region := h2.region.trans h1.region
  inFlight c hc := (h2.inFlight c hc).elim (h1.inFlight c) fun h => .inr (h.trans (congrArg stagingArea h1.region))

theorem LineSide.memoriesKept (h : LineSide s t) : MemoriesKept s t := by
  unfold LineSide at h
  rw [h]
  exact ⟨rfl, rfl, fun _ h => .inl h⟩

theorem complete_memoriesKept (status : CompletionStatus) : MemoriesKept s (s.complete status) :=
  ⟨rfl, rfl, fun _ h => .inl h⟩

theorem completeBytes_memoriesKept (status : CompletionStatus) (bytes : List Byte) :
    MemoriesKept s (s.completeBytes status bytes) :=
  ⟨rfl, rfl, fun _ h => .inl h⟩

/-- A happening on the line, and then a completion. -/
theorem LineSide.completed (h : LineSide s t) (status : CompletionStatus) : MemoriesKept s (t.complete status) :=
  (LineSide.memoriesKept h).trans (complete_memoriesKept status)

theorem onHeldWindow_memoriesKept {act : State → WindowNo → State} (h : ∀ s w, LineSide s (act s w)) :
    MemoriesKept s (s.onHeldWindow act) := by
  unfold State.onHeldWindow
  split
  · split
    · exact complete_memoriesKept _
    · split
      · exact LineSide.completed (h _ _) _
      · exact complete_memoriesKept _
  · exact complete_memoriesKept _

theorem runCommand_memoriesKept (s : State) (code : Nat) : MemoriesKept s (s.runCommand code) := by
  apply runCommand_of_all
  case configure =>
    unfold State.takeConfigure
    cases s.station with
    | unconfigured | configured => exact ⟨rfl, rfl, fun c hc => .inr (by cases hc; rfl)⟩
    | _ => exact complete_memoriesKept _
  case join =>
    unfold State.takeJoin
    cases s.station with
    | configured =>
      cases s.profile with
      | none => exact complete_memoriesKept _
      | some p => exact LineSide.completed (enterListening_side s p) _
    | _ => exact complete_memoriesKept _
  case leave =>
    unfold State.takeLeave
    cases s.station with
    | active => exact LineSide.completed (enterLeaving_side s) _
    | listening | standoff | muted => exact LineSide.completed (leaveAtOnce_side s) _
    | coldStart => exact ⟨rfl, rfl, fun _ h => .inl h⟩
    | _ => exact complete_memoriesKept _
  case reset => exact ⟨rfl, rfl, fun c hc => nomatch hc⟩
  case declare =>
    exact onHeldWindow_memoriesKept fun s w => ((declareWindow_side s w).trans (tryBegin_side _)).toLineSide
  case resync =>
    exact onHeldWindow_memoriesKept fun s w => ((resyncWindow_side s w).trans (tryBegin_side _)).toLineSide
  case watch =>
    unfold State.takeWatch
    split
    · exact complete_memoriesKept _
    · split
      · exact complete_memoriesKept _
      · split
        · exact LineSide.completed (setWindow_side _ _ _).toLineSide _
        · exact complete_memoriesKept _
  case clearWritten =>
    unfold State.takeClearWritten
    split
    · exact complete_memoriesKept _
    · split
      · exact complete_memoriesKept _
      · exact LineSide.completed (setWindow_side _ _ _).toLineSide _
  case sendNotice =>
    unfold State.takeSendNotice
    split
    · split
      · split
        · exact ⟨rfl, rfl, fun _ h => .inl h⟩
        · exact complete_memoriesKept _
      · exact complete_memoriesKept _
    · exact complete_memoriesKept _
  case takeNotice =>
    unfold State.takeTakeNotice
    split
    · exact complete_memoriesKept _
    · split
      · exact complete_memoriesKept _
      · exact ⟨rfl, rfl, fun _ h => .inl h⟩
  case setThreshold =>
    unfold State.takeSetThreshold
    split
    · exact ⟨rfl, rfl, fun _ h => .inl h⟩
    · exact complete_memoriesKept _
  case fence =>
    unfold State.takeFence
    split
    · split
      · split
        · have h : MemoriesKept s (s.appendOutbound (.fence ((s.operand 0).setWidth 16))) :=
            ⟨rfl, rfl, fun _ h => .inl h⟩
          exact h.trans (LineSide.completed (completeFences_side _) _)
        · exact complete_memoriesKept _
      · exact complete_memoriesKept _
    · exact complete_memoriesKept _
  case takeEvent =>
    unfold State.takeTakeEvent
    split
    · exact complete_memoriesKept _
    · exact ⟨rfl, rfl, fun _ h => .inl h⟩
  case windowStatus =>
    unfold State.takeWindowStatus
    split
    · exact complete_memoriesKept _
    · split
      · exact complete_memoriesKept _
      · exact completeBytes_memoriesKept _ _
  case rosterStatus =>
    unfold State.takeRosterStatus
    split
    · split <;> exact completeBytes_memoriesKept _ _
    · exact complete_memoriesKept _
  case stationStatus => exact completeBytes_memoriesKept _ _
  case refused => exact complete_memoriesKept _

theorem issue_memoriesKept (s : State) : MemoriesKept s s.issue := by
  unfold State.issue
  split
  · exact complete_memoriesKept _
  · exact runCommand_memoriesKept _ _

/-! ## What the other rows leave of the memories -/

theorem configureDone_memoriesKept (s : State) (c : ConfigureInFlight) : MemoriesKept s (s.configureDone c) := by
  unfold State.configureDone
  dsimp only
  split
  · exact ⟨rfl, rfl, fun c hc => nomatch hc⟩
  · next hp =>
    have h1 : MemoriesKept s (s.installProfile (readRawProfile c.staged)) := ⟨rfl, rfl, fun c hc => nomatch hc⟩
    have h2 : LineSide (s.installProfile (readRawProfile c.staged))
        (s.installProfile (readRawProfile c.staged)).nowConfigured := by
      unfold State.nowConfigured
      split
      · exact enter_side _ _ _ _
      · exact .refl _
    exact h1.trans ((LineSide.memoriesKept (h2.trans (configureEvents_side _ _).toLineSide)).trans
      ⟨rfl, rfl, fun _ h => .inl h⟩)

/-- A data access that is decided reaches the store only as an off-line write. -/
theorem decideAccess_store {a : HostAccess} (h : s.decideAccess a = .next t) :
    t.store = s.store ∨
      (a.isWrite = true ∧ s.hostAccessAllowed = true ∧ s.station.takesPart = false ∧
        ∃ b v, t.store = s.store.writeWords (storeAddress b a.word) [v]) := by
  unfold State.decideAccess at h
  split at h
  · cases h
    exact .inl rfl
  · next hf =>
    have hallowed : s.hostAccessAllowed = true := by
      by_contra hn
      unfold State.accessFault at hf
      simp only [Bool.not_eq_true _ ▸ hn, Bool.not_false, if_true, reduceCtorEq] at hf
    have hread (hr : a.access = .read) (h : s.accessStore a = .next t) : t.store = s.store := by
      unfold State.accessStore at h
      rw [hr] at h
      split at h
      · cases h
      · split at h <;> cases h
        rfl
    split at h
    · next hr => exact .inl (hread hr h)
    · next v hw =>
      have hisWrite : a.isWrite = true := by simp [HostAccess.isWrite, hw]
      split at h
      · cases h
        left
        unfold State.accessQueue
        split
        · rfl
        · unfold State.takeWrite
          split <;> rfl
      · next hoff =>
        right
        refine ⟨hisWrite, hallowed, Bool.not_eq_true _ ▸ hoff, ?_⟩
        unfold State.accessStore at h
        rw [hw] at h
        split at h
        · cases h
        · next b _ =>
          split at h <;> cases h
          exact ⟨b, v, rfl⟩

/-- The control region and a CONFIGURE in flight are no business of a data access. -/
theorem decideAccess_region {a : HostAccess} (h : s.decideAccess a = .next t) :
    t.region = s.region ∧ t.inFlight = s.inFlight := by
  have hstore (h : s.accessStore a = .next t) : t.region = s.region ∧ t.inFlight = s.inFlight := by
    unfold State.accessStore at h
    split at h
    · cases h
    · split at h
      · split at h <;> cases h <;> exact ⟨rfl, rfl⟩
      · cases h
  unfold State.decideAccess at h
  split at h
  · cases h
    exact ⟨rfl, rfl⟩
  · split at h
    · exact hstore h
    · split at h
      · cases h
        unfold State.accessQueue
        split
        · exact ⟨rfl, rfl⟩
        · unfold State.takeWrite
          split <;> exact ⟨rfl, rfl⟩
      · exact hstore h

theorem execCopyReadGranted_memoriesKept (h : execCopyReadGranted s = .next t) : MemoriesKept s t := by
  unfold execCopyReadGranted at h
  split at h
  · split at h
    · split at h
      · cases h
        exact LineSide.memoriesKept (releaseCopyRead_side s).toLineSide
      · split at h <;> cases h
        exact LineSide.memoriesKept (offerBlock_side _ _ _ _ _ _)
    · cases h
      exact .refl _
  · cases h
    exact .refl _

theorem applyUpdate_memories (s : State) (peer : Option StationNo) (w : WindowNo) (b first : Nat) (words : List Word) :
    (s.applyUpdate peer w b first words).store = s.store.writeWords (storeAddress b first) words ∧
      (s.applyUpdate peer w b first words).region = s.region ∧
      (s.applyUpdate peer w b first words).inFlight = s.inFlight := by
  unfold State.applyUpdate
  dsimp only
  split <;> exact ⟨rfl, rfl, rfl⟩

/-! ## The store changes by its claims alone -/

theorem execHostDataAccess_store {address : BitVec 20} {lanes : Lanes} {access : BusAccess}
    (h : execHostDataAccess address lanes access s = .next t) : t.store = s.store := by
  unfold execHostDataAccess at h
  dsimp only at h
  split at h
  · cases h
    rfl
  · split at h
    · cases h
      rfl
    · next hclaim =>
      refine (decideAccess_store h).elim id fun ⟨hw, hallowed, hoff, _⟩ => absurd ?_ hclaim
      simp [State.needsClaim, hallowed, hoff]

/-- CONFIGURED is the one state off the line in which data access is allowed (R10). -/
theorem configured_of_allowed (ha : s.hostAccessAllowed = true) (hoff : s.station.takesPart = false) :
    s.station = .configured := by
  unfold State.hostAccessAllowed at ha
  unfold StationState.takesPart at hoff
  split at ha <;> simp_all

theorem execHostStoreClaimGranted_store (h : execHostStoreClaimGranted s = .next t) :
    t.store = s.store ∨ (s.station = .configured ∧ ∃ c, s.hostClaim = some c ∧ c.access.isWrite = true) := by
  unfold execHostStoreClaimGranted at h
  split at h
  · cases h
    exact .inl rfl
  · next c hc =>
    split at h
    · unfold State.decideClaim at h
      split at h
      · cases h
        exact .inl rfl
      · exact (decideAccess_store h).imp id fun ⟨hw, hallowed, hoff, _⟩ =>
          ⟨configured_of_allowed (s := { s with hostClaim := none }) hallowed hoff, c, hc, hw⟩
    · cases h
      exact .inl rfl

theorem execControlRegionWrite_store {word : BitVec 8} {lanes : Lanes} {value : Word}
    (h : execControlRegionWrite word lanes value s = .next t) : t.store = s.store := by
  unfold execControlRegionWrite at h
  dsimp only at h
  split at h
  · cases h
    rfl
  · split at h <;> cases h
    · exact (issue_memoriesKept s).store
    · rfl

/-- Settles O10: a happening on the line, a host command and every row but the claims' leave the store as it is, and of the
host's claims an off-line write's alone writes. -/
theorem storeChangesByClaimsAlone : Obligations.StoreChangesByClaimsAlone := by
  intro i s t h hne
  cases rowKind i with
  | line hi =>
    obtain ⟨t', ht', hside⟩ := exec_ofLine hi s
    cases ht'.symm.trans h
    exact absurd (LineSide.memoriesKept hside).store hne
  | command hi =>
    cases (hi s).symm.trans h
    exact absurd (issue_memoriesKept _).store hne
  | reset =>
    cases h
    exact absurd rfl hne
  | init => exact .inr (.inr (.inl rfl))
  | access => exact absurd (execHostDataAccess_store h) hne
  | claim => exact (execHostStoreClaimGranted_store h).elim (absurd · hne) fun hw => .inr (.inr (.inr ⟨rfl, hw⟩))
  | region => exact absurd (execControlRegionWrite_store h) hne
  | configured =>
    refine absurd ?_ hne
    change execConfigureComplete s = _ at h
    unfold execConfigureComplete at h
    split at h <;> cases h
    · rfl
    · exact (configureDone_memoriesKept _ _).store
  | applied => exact .inl rfl
  | copied => exact .inr (.inl rfl)
  | copyRead => exact absurd (execCopyReadGranted_memoriesKept h).store hne

/-! ## The canonical form -/

theorem MemoriesKept.canonical (h : MemoriesKept s t) (hs : s.Canonical) : t.Canonical := by
  obtain ⟨hstore, hregion, hflight⟩ := hs
  refine ⟨h.store ▸ hstore, h.region ▸ hregion, fun c hc => ?_⟩
  rcases h.inFlight c hc with hc | hc
  · exact hflight c hc
  · exact hc ▸ wf_stagingArea hregion

/-- A row that writes into the store by `Memory.writeWords` and leaves the region keeps the canonical form. -/
theorem canonical_of_writeWords {a : Nat} {words : List Word} (hs : s.Canonical)
    (hstore : t.store = s.store.writeWords a words) (hregion : t.region = s.region) (hflight : t.inFlight = s.inFlight) :
    t.Canonical := by
  obtain ⟨h1, h2, h3⟩ := hs
  exact ⟨hstore ▸ wf_writeWords a words h1, hregion ▸ h2, hflight ▸ h3⟩

theorem writeStore_canonical (hs : s.Canonical) (block word : Nat) (words : List Word) :
    (s.writeStore block word words).Canonical :=
  canonical_of_writeWords hs rfl rfl rfl

theorem withInitPass_memoriesKept (s : State) (pass : Option Nat) : MemoriesKept s { s with initPass := pass } :=
  ⟨rfl, rfl, fun _ h => .inl h⟩

theorem initDone_memoriesKept (s : State) : MemoriesKept s s.initDone :=
  (withInitPass_memoriesKept s none).trans (LineSide.memoriesKept (enter_side _ _ _ _))

theorem decideAccess_canonical {a : HostAccess} (hs : s.Canonical) (h : s.decideAccess a = .next t) : t.Canonical := by
  obtain ⟨hregion, hflight⟩ := decideAccess_region h
  rcases decideAccess_store h with hstore | ⟨_, _, _, b, v, hstore⟩
  · exact canonical_of_writeWords (a := 0) (words := []) hs hstore hregion hflight
  · exact canonical_of_writeWords hs hstore hregion hflight

theorem execInitPassStep_canonical (hs : s.Canonical) (h : execInitPassStep s = .next t) : t.Canonical := by
  unfold execInitPassStep at h
  split at h
  · cases h
    exact hs
  · split at h
    · next b _ _ =>
      have hzeroed := writeStore_canonical hs b 0 (List.replicate 16 0)
      dsimp only at h
      split at h <;> cases h
      · exact (withInitPass_memoriesKept _ _).canonical hzeroed
      · exact (initDone_memoriesKept _).canonical hzeroed
    · cases h

theorem execHostDataAccess_canonical {address : BitVec 20} {lanes : Lanes} {access : BusAccess} (hs : s.Canonical)
    (h : execHostDataAccess address lanes access s = .next t) : t.Canonical := by
  unfold execHostDataAccess at h
  dsimp only at h
  split at h
  · cases h
    exact hs
  · split at h
    · cases h
      exact hs
    · exact decideAccess_canonical hs h

theorem execHostStoreClaimGranted_canonical (hs : s.Canonical) (h : execHostStoreClaimGranted s = .next t) :
    t.Canonical := by
  unfold execHostStoreClaimGranted at h
  split at h
  · cases h
    exact hs
  · split at h
    · unfold State.decideClaim at h
      split at h
      · cases h
        exact hs
      · exact decideAccess_canonical (s := { s with hostClaim := none }) hs h
    · cases h
      exact hs

theorem execControlRegionWrite_canonical {word : BitVec 8} {lanes : Lanes} {value : Word} (hs : s.Canonical)
    (h : execControlRegionWrite word lanes value s = .next t) : t.Canonical := by
  unfold execControlRegionWrite at h
  dsimp only at h
  split at h
  · cases h
    obtain ⟨h1, h2, h3⟩ := hs
    exact ⟨h1, wf_writeLanes _ _ _ h2, h3⟩
  · split at h <;> cases h
    · exact (issue_memoriesKept s).canonical hs
    · exact hs

theorem command_canonical (hs : s.Canonical) (code : Nat) (operands : List Word) (tag : Word) :
    (s.command code operands tag).Canonical := by
  obtain ⟨h1, h2, h3⟩ := hs
  have hfilled : (s.fillCommand code operands tag).Canonical := ⟨h1, wf_fillCommand code operands tag h2, h3⟩
  exact (issue_memoriesKept (s.fillCommand code operands tag)).canonical hfilled

theorem exec_canonical {i : Instr} (hs : s.Canonical) (h : exec i s = .next t) : t.Canonical := by
  cases rowKind i with
  | line hi =>
    obtain ⟨t', ht', hside⟩ := exec_ofLine hi s
    cases ht'.symm.trans h
    exact (LineSide.memoriesKept hside).canonical hs
  | command hi =>
    cases (hi s).symm.trans h
    exact command_canonical hs _ _ _
  | reset =>
    cases h
    exact ⟨hs.1, rfl, fun _ h => nomatch h⟩
  | init => exact execInitPassStep_canonical hs h
  | access => exact execHostDataAccess_canonical hs h
  | claim => exact execHostStoreClaimGranted_canonical hs h
  | region => exact execControlRegionWrite_canonical hs h
  | configured =>
    change execConfigureComplete s = _ at h
    unfold execConfigureComplete at h
    split at h <;> cases h
    · exact hs
    · exact (configureDone_memoriesKept _ _).canonical hs
  | applied =>
    change execUpdateApplied s = _ at h
    unfold execUpdateApplied at h
    split at h
    · split at h <;> cases h
      obtain ⟨h1, h2, h3⟩ := applyUpdate_memories { s with frameClaims := _ } _ _ _ _ _
      exact canonical_of_writeWords hs h1 h2 h3
    · cases h
      exact hs
  | copied =>
    change execCopiedBlockWritten s = _ at h
    unfold execCopiedBlockWritten at h
    split at h
    · split at h <;> cases h
      exact canonical_of_writeWords hs rfl rfl rfl
    · cases h
      exact hs
  | copyRead => exact (execCopyReadGranted_memoriesKept h).canonical hs

/-- Settles O55: of the rows, those that write into a memory do it by `Memory.write`, which keeps the canonical form. -/
theorem everyStepKeepsMemoriesCanonical : Obligations.EveryStepKeepsMemoriesCanonical := by
  intro s t hs h
  unfold step at h
  split at h
  · cases h
    have hside : MemoriesKept s s.byteTime := by
      unfold State.byteTime
      dsimp only
      split <;> exact ⟨rfl, rfl, fun _ h => .inl h⟩
    exact hside.canonical hs
  · next c rest _ => exact exec_canonical (s := { s with pending := rest }) hs h

end Sys2Proof.Proofs

/-! What every operation keeps: no queue or list grows past its limit (R97, R102, R115, R145, R159, R169), and every held span,
waiting claim and init pass stays in the 8192 store blocks (R3, R15).  One relation between the state before an operation and
the state after it says both, field by field; it is proved once for each operation, in the order of the model. -/

namespace Sys2Proof.Proofs

-- One proof at a time: every further thread of the elaborator counts against the memory limit.
set_option Elab.async false

open Sys2Proof Sys2Proof.Machine Sys2Proof.Laws

variable {s t u : State}

/-! ## The relation -/

/-- The store block of a frame claim is one that the store has (R15, R17). -/
def claimInStore : FrameClaim → Prop
  | .update _ _ block _ _ => block < 8192
  | .copied _ block _ => block < 8192

/-- Every held window's span lies in the store (R3). -/
def spansFit (windows : Vector WindowRecord 32) : Prop :=
  ∀ (w : WindowNo) (h : Holding), windows[w].holding = some h → h.base + h.count ≤ 8192

/-- The event queue is within its limit, and an overflow mark stands over a record (R169, R170). -/
def eventsFit (events : List Event) (overflow : Bool) : Prop := events.length ≤ 32 ∧ (overflow = true → events ≠ [])

/-- A notice level is within its limit, and an overrun mark stands over a record (R159, R163). -/
def levelFits (q : LevelQueue) : Prop := q.notices.length ≤ 4 ∧ (q.overrun = true → q.notices ≠ [])

/-- What an operation keeps, but for the FENCE that may come to stand at the head of the Outbound Queue.  A field that an
operation does not touch is kept by default. -/
structure BoundsKept (s t : State) : Prop where
  outbound : s.outbound.length ≤ 64 → t.outbound.length ≤ 64 := by exact id
  control : s.control.length ≤ 16 → t.control.length ≤ 16 := by exact id
  controlFrames : (∀ b ∈ s.control, isControl b = true) → ∀ b ∈ t.control, isControl b = true := by exact id
  serving : s.serving.length ≤ 4 → t.serving.length ≤ 4 := by exact id
  held : (∀ a, s.account = some a → a.held.length ≤ 253) → ∀ a, t.account = some a → a.held.length ≤ 253 := by exact id
  events : eventsFit s.events s.eventOverflow → eventsFit t.events t.eventOverflow := by exact id
  notices : (∀ i : Fin 7, levelFits (s.notices.queue i)) → ∀ i : Fin 7, levelFits (t.notices.queue i) := by exact id
  spans : spansFit s.windows → spansFit t.windows := by exact id
  claims : spansFit s.windows → (∀ c ∈ s.frameClaims, claimInStore c) → ∀ c ∈ t.frameClaims, claimInStore c := by
    exact fun _ => id
  initPass : (∀ b, s.initPass = some b → b < 8192) → ∀ b, t.initPass = some b → b < 8192 := by exact id

/-- What an operation keeps that leaves no FENCE at the head of the Outbound Queue (R101). -/
structure Kept (s t : State) : Prop extends BoundsKept s t where
  fences : fencesAtHead s.outbound = [] → fencesAtHead t.outbound = [] := by exact id

theorem BoundsKept.trans (h1 : BoundsKept s t) (h2 : BoundsKept t u) : BoundsKept s u where
  outbound h := h2.outbound (h1.outbound h)
  control h := h2.control (h1.control h)
  controlFrames h := h2.controlFrames (h1.controlFrames h)
  serving h := h2.serving (h1.serving h)
  held h := h2.held (h1.held h)
  events h := h2.events (h1.events h)
  notices h := h2.notices (h1.notices h)
  spans h := h2.spans (h1.spans h)
  claims h hc := h2.claims (h1.spans h) (h1.claims h hc)
  initPass h := h2.initPass (h1.initPass h)

theorem Kept.refl (s : State) : Kept s s where

theorem Kept.trans (h1 : Kept s t) (h2 : Kept t u) : Kept s u where
  toBoundsKept := h1.toBoundsKept.trans h2.toBoundsKept
  fences h := h2.fences (h1.fences h)

theorem Kept.foldl {α : Type} {f : State → α → State} (hf : ∀ s a, Kept s (f s a)) :
    ∀ (l : List α) (s : State), Kept s (l.foldl f s)
  | [], s => .refl s
  | a :: l, s => (hf s a).trans (Kept.foldl hf l (f s a))

/-- A change of what no limit and no span speaks of: the station state, the clock and the line's units. -/
theorem line_kept {s : State} {station : StationState} {leavePending : Bool} {openFailures : Nat}
    {copyRead turn : Option (StationNo × WindowNo)} {transmitter : Option Sending} {receiver : Receiver} {clock : Clock}
    {roster : List RosterRecord} {filler : Option Filling} {lastOpened : Option (Half × Nat)} {resync : List WindowNo}
    {catchUp : Option CatchUp} :
    Kept s { s with
      station := station, leavePending := leavePending, openFailures := openFailures, copyRead := copyRead, turn := turn
      transmitter := transmitter, receiver := receiver, clock := clock, roster := roster, filler := filler
      lastOpened := lastOpened, resync := resync, catchUp := catchUp } where

theorem BoundsKept.withinLimits (h : BoundsKept s t) (hs : s.WithinLimits) (hf : fencesAtHead t.outbound = []) :
    t.WithinLimits := by
  have hn := h.notices fun i => ⟨hs.notices i, hs.overrun i⟩
  obtain ⟨he, ho⟩ := h.events ⟨hs.events, hs.overflow⟩
  exact {
    outbound := h.outbound hs.outbound, noFenceAtHead := hf, control := h.control hs.control
    controlFrames := h.controlFrames hs.controlFrames, serving := h.serving hs.serving, held := h.held hs.held
    events := he, overflow := ho, notices := fun i => (hn i).1, overrun := fun i => (hn i).2 }

theorem Kept.withinLimits (h : Kept s t) (hs : s.WithinLimits) : t.WithinLimits :=
  h.toBoundsKept.withinLimits hs (h.fences hs.noFenceAtHead)

theorem claimInStore_of_spansInStore (h : s.SpansInStore) : ∀ c ∈ s.frameClaims, claimInStore c := by
  intro c hc
  have := h.claims c hc
  cases c <;> exact this

theorem BoundsKept.spansInStore (h : BoundsKept s t) (hs : s.SpansInStore) : t.SpansInStore where
  spans := h.spans hs.spans
  claims c hc := by
    have hin := h.claims hs.spans (claimInStore_of_spansInStore hs) c hc
    cases c <;> exact hin
  initPass := h.initPass hs.initPass

/-! ## Memory, windows, events, queues -/

/-- A change of window records that keeps what every window holds. -/
theorem kept_windows {windows : Vector WindowRecord 32}
    (h : ∀ w : WindowNo, (windows[w]).holding = (s.window w).holding) : Kept s { s with windows := windows } where
  spans hs w hd heq := hs w hd ((h w).symm.trans heq)

theorem setWindow_kept (w : WindowNo) (r : WindowRecord) (h : r.holding = (s.window w).holding) :
    Kept s (s.setWindow w r) where
  spans hs v hd heq := by
    change ((s.setWindow w r).window v).holding = some hd at heq
    rw [setWindow_window] at heq
    split at heq
    next hwv => exact hs w hd (h ▸ heq)
    next => exact hs v hd heq

theorem mapWindows_kept (f : WindowRecord → WindowRecord) (h : ∀ r, (f r).holding = r.holding) :
    Kept s (s.mapWindows f) :=
  kept_windows fun w => (congrArg WindowRecord.holding (mapWindows_window s f w)).trans (h _)

theorem writeStore_kept (block word : Nat) (words : List Word) : Kept s (s.writeStore block word words) where

theorem setWritten_kept (w : WindowNo) : Kept s (s.setWritten w) := setWindow_kept w _ rfl

theorem appendEvent_kept (e : Event) : Kept s (s.appendEvent e) where
  events := by
    rintro ⟨hlen, hover⟩
    by_cases hroom : s.events.length < Config.eventCapacity
    · have heq : (s.appendEvent e).events = s.events ++ [e] := if_pos hroom
      refine ⟨?_, fun _ => ?_⟩
      · rw [heq, List.length_append]
        exact hroom
      · rw [heq]
        simp
    · have heq : (s.appendEvent e).events = s.events := if_neg hroom
      refine ⟨heq ▸ hlen, fun _ hnil => hroom ?_⟩
      rw [← heq, hnil]
      decide

theorem event_kept (subject : Option Half) (detail : EventDetail) : Kept s (s.event subject detail) :=
  appendEvent_kept _

theorem queueControl_kept {f : FrameBody} (hf : isControl f = true := by rfl) : Kept s (s.queueControl f) where
  control h := by
    dsimp only [State.queueControl]
    split
    next hroom =>
      rw [List.length_append]
      exact hroom
    next => exact h
  controlFrames h := by
    dsimp only [State.queueControl]
    split
    · intro b hb
      rcases List.mem_append.1 hb with hb | hb
      · exact h b hb
      · exact List.mem_singleton.1 hb ▸ hf
    · exact h

theorem unqueueControl_kept (f : FrameBody) : Kept s (s.unqueueControl f) where
  control h := (List.length_erase_le).trans h
  controlFrames h b hb := h b (List.mem_of_mem_erase hb)

theorem fenceEvents_kept (flushed : Bool) (tags : List Half) : Kept s (s.fenceEvents flushed tags) :=
  Kept.foldl (fun s _ => event_kept (s := s) _ _) _ _

theorem dropFences_length_le : ∀ l : List OutboundEntry, (dropFences l).length ≤ l.length
  | [] => le_rfl
  | .fence _ :: rest => (dropFences_length_le rest).trans (Nat.le_succ _)
  | .update _ _ _ _ _ :: _ => le_rfl
  | .notice _ _ _ :: _ => le_rfl

theorem fencesAtHead_dropFences : ∀ l : List OutboundEntry, fencesAtHead (dropFences l) = []
  | [] => rfl
  | .fence _ :: rest => fencesAtHead_dropFences rest
  | .update _ _ _ _ _ :: _ => rfl
  | .notice _ _ _ :: _ => rfl

theorem fenceEvents_outbound (flushed : Bool) (tags : List Half) : (s.fenceEvents flushed tags).outbound = s.outbound := by
  rw [fenceEvents_side s flushed tags]

theorem completeFences_outbound : s.completeFences.outbound = dropFences s.outbound := fenceEvents_outbound _ _

theorem completeFences_kept : Kept s s.completeFences :=
  Kept.trans (t := { s with outbound := dropFences s.outbound })
    { outbound := fun h => (dropFences_length_le _).trans h, fences := fun _ => fencesAtHead_dropFences _ }
    (fenceEvents_kept _ _)

theorem enter_kept (next : StationState) (cause : StationCause) (count : Nat) : Kept s (s.enter next cause count) :=
  Kept.trans (t := { s with station := next }) {} (event_kept _ _)

/-! ## The Notice Unit -/

theorem arrive_fits {q : LevelQueue} (n : Notice) (h : levelFits q) : levelFits (q.arrive n) := by
  unfold LevelQueue.arrive
  split
  next hroom => exact ⟨by rw [List.length_append]; exact hroom, fun _ => by simp⟩
  next hfull =>
    refine ⟨h.1, fun _ hnil => hfull ?_⟩
    change q.notices = [] at hnil
    rw [hnil]
    decide

theorem queue_setQueue (u : NoticeUnit) (i j : Fin 7) (q : LevelQueue) :
    (u.setQueue i q).queue j = if i = j then q else u.queue j := by
  simp only [NoticeUnit.setQueue, NoticeUnit.queue, Fin.getElem_fin, Vector.getElem_set, Fin.ext_iff]

theorem setQueue_fits {n : NoticeUnit} {i : Fin 7} {q : LevelQueue} (hq : levelFits q)
    (h : ∀ i : Fin 7, levelFits (n.queue i)) (j : Fin 7) : levelFits ((n.setQueue i q).queue j) := by
  rw [queue_setQueue]
  split
  · exact hq
  · exact h j

theorem deliver_kept (n : Notice) : Kept s (s.deliver n) := by
  unfold State.deliver
  split
  · exact .refl s
  · exact { notices := fun h => setQueue_fits (arrive_fits n (h _)) h }

theorem deliverAll_kept (l : List Notice) : Kept s (s.deliverAll l) := Kept.foldl (fun s n => deliver_kept (s := s) n) l s

/-! ## The Copy Server -/

theorem removeServing_kept (pair : StationNo × WindowNo) : Kept s (s.removeServing pair) where
  serving h := (List.length_filter_le _ _).trans h

theorem dropServing_kept (r : ServingRecord) : Kept s (s.dropServing r) :=
  (removeServing_kept r.pair).trans (unqueueControl_kept _)

theorem tellJoiner_kept (r : ServingRecord) : Kept s (s.tellJoiner r) := queueControl_kept

theorem abortRecord_kept (r : ServingRecord) : Kept s (s.abortRecord r) := (tellJoiner_kept r).trans (dropServing_kept r)

theorem abortServing_kept (w : WindowNo) : Kept s (s.abortServing w) :=
  Kept.foldl (fun s r => abortRecord_kept (s := s) r) _ _

theorem abortAllServing_kept : Kept s s.abortAllServing := by
  refine Kept.trans (Kept.foldl (fun s r => tellJoiner_kept (s := s) r) s.serving s) ?_
  exact Kept.trans (Kept.foldl (fun s r => dropServing_kept (s := s) r) s.serving _) {}

theorem joinerDeparted_kept (station : StationNo) : Kept s (s.joinerDeparted station) :=
  Kept.foldl (fun s r => dropServing_kept (s := s) r) _ _

theorem clearOffer_kept (joiner : StationNo) (w : WindowNo) : Kept s (s.clearOffer joiner w) := by
  unfold State.clearOffer
  split
  · exact .refl s
  · exact dropServing_kept _

theorem createOffer_kept (joiner : StationNo) (w : WindowNo) (first last : BitVec 10) :
    Kept s (s.createOffer joiner w first last) := by
  unfold State.createOffer
  split
  next hroom =>
    refine Kept.trans (t := { s with serving := _ }) { serving := fun _ => ?_ } queueControl_kept
    rw [List.length_append]
    exact hroom
  next => exact .refl s

theorem takeCreq_kept (joiner : StationNo) (w : WindowNo) (first last : BitVec 10) :
    Kept s (s.takeCreq joiner w first last) := by
  unfold State.takeCreq
  split
  · exact (clearOffer_kept joiner w).trans (createOffer_kept _ _ _ _)
  · exact .refl s

theorem withdrawOffer_kept (joiner : StationNo) (w : WindowNo) : Kept s (s.withdrawOffer joiner w) := by
  unfold State.withdrawOffer
  split
  · exact .refl s
  · split
    · exact .refl s
    · exact dropServing_kept _

theorem cbegReported_kept (joiner : StationNo) (w : WindowNo) : Kept s (s.cbegReported joiner w) where
  serving h := (List.length_map _).trans_le h

theorem lapseOffers_kept : Kept s s.lapseOffers := by
  unfold State.lapseOffers
  split
  · exact Kept.foldl (fun s r => dropServing_kept (s := s) r) _ _
  · exact .refl s

theorem advanceServing_kept (r : ServingRecord) (next : Nat) : Kept s (s.advanceServing r next) := by
  unfold State.advanceServing
  dsimp only
  split
  · exact { serving := fun h => (List.length_map _).trans_le h }
  · refine Kept.trans (t := { s with turn := some r.pair }) {} ?_
    exact Kept.trans queueControl_kept (removeServing_kept _)

/-! ## Currency and catch-up -/

theorem changeCurrency_kept (w : WindowNo) (next : Currency) (attempts : Nat) (cause : WindowCause)
    (failure : Option FailureKind) : Kept s (s.changeCurrency w next attempts cause failure) := by
  have hchanged : Kept s ((s.setWindow w { s.window w with
      currency := next, attempts := attempts, coldMark := none }).event
      (subjectOf w.val) (.windowState (s.window w).currency next cause attempts failure)) :=
    (setWindow_kept w { s.window w with currency := next, attempts := attempts, coldMark := none } rfl).trans
      (event_kept _ _)
  unfold State.changeCurrency
  dsimp only
  split
  · exact hchanged.trans (abortServing_kept w)
  · exact hchanged

theorem joinResync_kept (w : WindowNo) : Kept s (s.joinResync w) where

theorem dropRequest_kept (c : CatchUp) : Kept s (s.dropRequest c) :=
  Kept.trans (t := { s with catchUp := none }) {} (unqueueControl_kept _)

theorem failControl_kept (c : CatchUp) (kind : FailureKind) : Kept s (s.failControl c kind) := by
  unfold State.failControl
  split
  · exact dropRequest_kept c
  · split
    · exact Kept.trans (t := { s with catchUp := none }) {} queueControl_kept
    · exact {}

theorem failWindow_kept (w : WindowNo) (kind : FailureKind) : Kept s (s.failWindow w kind) := by
  unfold State.failWindow
  dsimp only
  split
  · exact (changeCurrency_kept _ _ _ _ _).trans (joinResync_kept _)
  · exact (changeCurrency_kept _ _ _ _ _).trans (event_kept _ _)

theorem failAttempt_kept (kind : FailureKind) : Kept s (s.failAttempt kind) := by
  unfold State.failAttempt
  split
  · exact .refl s
  · exact (failControl_kept _ kind).trans (failWindow_kept _ kind)

theorem loss_kept (w : WindowNo) : Kept s (s.loss w) := by
  unfold State.loss
  cases (s.window w).currency with
  | current =>
    dsimp only
    split
    · exact (changeCurrency_kept _ _ _ _ _).trans (joinResync_kept _)
    · exact changeCurrency_kept _ _ _ _ _
  | catchingUp => exact failAttempt_kept _
  | stale | stranded | unheld => exact .refl s

theorem losses_kept (test : WindowNo → Bool) : Kept s (s.losses test) := Kept.foldl (fun s w => loss_kept (s := s) w) _ _

theorem beginAttempt_kept (w : WindowNo) : Kept s (s.beginAttempt w) := by
  unfold State.beginAttempt
  dsimp only
  refine Kept.trans ?_ (changeCurrency_kept _ _ _ _ _)
  exact Kept.trans (t := { s with catchUp := _, resync := _ }) {} queueControl_kept

theorem tryBegin_kept : Kept s s.tryBegin := by
  unfold State.tryBegin
  split
  · split
    · exact .refl s
    · exact beginAttempt_kept _
  · exact .refl s

theorem succeed_kept (c : CatchUp) (donor : StationNo) : Kept s (s.succeed c donor) :=
  Kept.trans (t := { s with catchUp := none }) {} ((changeCurrency_kept _ _ _ _ _).trans (event_kept _ _))

theorem donorDeparted_kept (station : StationNo) : Kept s (s.donorDeparted station) := by
  rw [donorDeparted_eq]
  split
  · exact failAttempt_kept _
  · exact .refl s

theorem stray_kept (station : StationNo) (w : WindowNo) (isCbeg : Bool) : Kept s (s.stray station w isCbeg) := by
  unfold State.stray
  split
  · split
    · exact queueControl_kept
    · exact .refl s
  · split
    · exact .refl s
    · exact Kept.trans (t := { s with catchUp := _ }) {} queueControl_kept

theorem joinerCbeg_kept (sender : StationNo) (w : WindowNo) : Kept s (s.joinerCbeg sender w) := by
  unfold State.joinerCbeg
  split
  · exact stray_kept _ _ _
  · split
    · exact stray_kept _ _ _
    · split
      · split
        · exact .refl s
        · exact {}
      · split
        · exact {}
        · exact stray_kept _ _ _

/-- The store block of a held block lies in the window's span. -/
theorem storeBlock_lt (hs : spansFit s.windows) {w : WindowNo} {block b : Nat} (h : (s.window w).storeBlock block = some b) :
    b < 8192 := by
  unfold WindowRecord.storeBlock at h
  split at h
  · cases h
  · next hd hhd =>
    have hspan := hs w hd hhd
    split at h <;> cases h
    next hin =>
    simp only [WindowRecord.inExtent, hhd, Bool.and_eq_true, decide_eq_true_eq] at hin
    omega

/-- Frame claims that lie in the store join those that wait. -/
theorem kept_claims {l : List FrameClaim} (h : spansFit s.windows → ∀ c ∈ l, claimInStore c) :
    Kept s { s with frameClaims := s.frameClaims ++ l } where
  claims hs hc c hm := (List.mem_append.1 hm).elim (hc c) (h hs c)

theorem joinerCblk_kept (sender : StationNo) (w : WindowNo) (block : Nat) (words : List Word) :
    Kept s (s.joinerCblk sender w block words) := by
  unfold State.joinerCblk
  split
  · split
    · split
      · exact .refl s
      · next b hb =>
        refine Kept.trans (kept_claims fun hs c hc => ?_) {}
        obtain rfl := List.mem_singleton.1 hc
        exact storeBlock_lt hs hb
    · exact stray_kept _ _ _
  · exact stray_kept _ _ _

theorem joinerCend_kept (sender : StationNo) (w : WindowNo) : Kept s (s.joinerCend sender w) := by
  unfold State.joinerCend
  split
  · split
    · split
      · exact succeed_kept _ _
      · exact failAttempt_kept _
    · exact .refl s
  · exact .refl s

theorem joinerCabt_kept (sender : StationNo) (w : WindowNo) : Kept s (s.joinerCabt sender w) := by
  unfold State.joinerCabt
  split
  · split
    · exact failAttempt_kept _
    · exact .refl s
  · exact .refl s

theorem creqReported_kept (w : WindowNo) (attempt : BitVec 3) : Kept s (s.creqReported w attempt) := by
  unfold State.creqReported
  split
  · split
    · exact {}
    · exact .refl s
  · exact .refl s

theorem reduceTimers_kept : Kept s s.reduceTimers := by
  unfold State.reduceTimers
  split
  · exact .refl s
  · split
    · split <;> exact {}
    · exact .refl s

theorem expireWait_kept : Kept s s.expireWait := by
  unfold State.expireWait
  split
  · exact failAttempt_kept _
  · exact .refl s

theorem expireStall_kept : Kept s s.expireStall := by
  unfold State.expireStall
  split
  · exact failAttempt_kept _
  · exact .refl s

theorem reduceMark_holding (r : WindowRecord) : r.reduceMark.holding = r.holding := by
  unfold WindowRecord.reduceMark
  split <;> rfl

theorem reduceColdMarks_kept : Kept s s.reduceColdMarks := by
  unfold State.reduceColdMarks
  split
  · exact mapWindows_kept _ reduceMark_holding
  · exact .refl s

theorem coldYield_kept (x : StationNo) (misaligned : Bool) : Kept s (s.coldYield x misaligned) := by
  unfold State.coldYield
  refine Kept.trans ?_ (mapWindows_kept _ fun _ => rfl)
  refine (event_kept _ _).trans (Kept.foldl (fun s w => ?_) _ _)
  exact (changeCurrency_kept _ _ _ _ _).trans (joinResync_kept _)

theorem contest_kept (p : Profile) (x : StationNo) (cold misaligned : Bool) : Kept s (s.contest p x cold misaligned) := by
  unfold State.contest
  split
  · exact coldYield_kept x misaligned
  · exact .refl s

theorem dropForDeclare_kept (w : WindowNo) : Kept s (s.dropForDeclare w) := by
  unfold State.dropForDeclare
  split
  · exact .refl s
  · split
    · split
      · exact dropRequest_kept _
      · exact Kept.trans (t := { s with catchUp := none }) {} queueControl_kept
    · exact .refl s

theorem declareWindow_kept (w : WindowNo) : Kept s (s.declareWindow w) := by
  unfold State.declareWindow
  cases (s.window w).currency with
  | stale => exact Kept.trans (t := { s with resync := s.resync.erase w }) {} (changeCurrency_kept _ _ _ _ _)
  | stranded => exact changeCurrency_kept _ _ _ _ _
  | catchingUp => exact (dropForDeclare_kept w).trans (changeCurrency_kept _ _ _ _ _)
  | current | unheld => exact .refl s

theorem resyncWindow_kept (w : WindowNo) : Kept s (s.resyncWindow w) := by
  unfold State.resyncWindow
  cases (s.window w).currency with
  | current | stranded => exact (changeCurrency_kept _ _ _ _ _).trans (joinResync_kept _)
  | stale | catchingUp | unheld => exact .refl s

theorem dropForLeave_kept : Kept s s.dropForLeave := by
  unfold State.dropForLeave
  split
  · exact .refl s
  · dsimp only
    split
    · exact (dropRequest_kept _).trans (changeCurrency_kept _ _ _ _ _)
    · refine Kept.trans ?_ (changeCurrency_kept _ _ _ _ _)
      exact Kept.trans (t := { s with catchUp := none }) {} queueControl_kept

/-! ## The Roster and the slot accounts -/

theorem updateRoster_kept (station : StationNo) (f : RosterRecord → RosterRecord) : Kept s (s.updateRoster station f) where

theorem depart_kept (station : StationNo) (next : RosterState) (cause : DepartCause) :
    Kept s (s.depart station next cause) := by
  unfold State.depart
  split
  · exact .refl s
  · dsimp only
    split
    · exact ((updateRoster_kept _ _).trans (event_kept _ _)).trans ((donorDeparted_kept _).trans (joinerDeparted_kept _))
    · exact updateRoster_kept _ _

theorem rosterHeard_kept (h : Header) (cold leaving : Bool) (current : WindowSet) :
    Kept s (s.rosterHeard h cold leaving current) := by
  unfold State.rosterHeard
  split
  · exact .refl s
  · dsimp only
    split
    · exact updateRoster_kept _ _
    · exact (updateRoster_kept _ _).trans (event_kept _ _)

theorem rosterSeen_kept (h : Header) (leaving : Bool) (current : WindowSet) : Kept s (s.rosterSeen h leaving current) :=
  updateRoster_kept _ _

theorem examineRoster_kept : Kept s s.examineRoster := by
  unfold State.examineRoster
  split <;> exact {}

theorem silentPeer_kept (station : StationNo) : Kept s (s.silentPeer station) := by
  unfold State.silentPeer
  split
  · exact .refl s
  · split
    · exact depart_kept _ _ _
    · exact .refl s

theorem departSilent_kept : Kept s s.departSilent :=
  Kept.foldl (fun t (r : RosterRecord) => (silentPeer_kept (s := t) r.station).trans tryBegin_kept) _ _

theorem finishAccount_kept (a : Account) : Kept s (s.finishAccount a) := by
  unfold State.finishAccount
  dsimp only
  split
  · exact (deliverAll_kept _).trans (depart_kept _ _ _)
  · exact deliverAll_kept _

theorem withoutAccount_kept : Kept s { s with account := none } where
  held _ _ ha := nomatch ha

theorem endUnclosed_kept (a : Account) (ending : AccountEnding) : Kept s (s.endUnclosed a ending) :=
  withoutAccount_kept.trans (((event_kept _ _).trans (losses_kept _)).trans (finishAccount_kept a))

theorem endAccount_kept (ending : AccountEnding) : Kept s (s.endAccount ending) := by
  unfold State.endAccount
  split
  · exact .refl s
  · exact endUnclosed_kept _ ending

theorem checkClose_kept (a : Account) (updates frames : Byte) (touched : WindowSet) :
    Kept s (s.checkClose a updates frames touched) := by
  unfold State.checkClose
  split
  · exact (event_kept _ _).trans (losses_kept _)
  · split
    · exact losses_kept _
    · split
      · exact event_kept _ _
      · exact .refl s

theorem checkUnopened_kept (h : Header) (updates frames : Byte) (touched : WindowSet) :
    Kept s (s.checkUnopened h updates frames touched) := by
  unfold State.checkUnopened
  split
  · exact losses_kept _
  · split
    · exact event_kept _ _
    · exact .refl s

theorem takeClose_kept (h : Header) (updates frames : Byte) (touched : WindowSet) :
    Kept s (s.takeClose h updates frames touched) := by
  unfold State.takeClose
  split
  · exact .refl s
  · split
    · exact checkUnopened_kept _ _ _ _
    · exact withoutAccount_kept.trans ((checkClose_kept _ _ _ _).trans (finishAccount_kept _))

theorem takeOpen_kept (h : Header) (leaving foreign : Bool) : Kept s (s.takeOpen h leaving foreign) := by
  unfold State.takeOpen
  split
  · dsimp only
    split
    · exact endAccount_kept _
    · refine (endAccount_kept _).trans { held := fun _ a ha => ?_ }
      cases ha
      exact Nat.zero_le _
  · exact .refl s

/-- A change of the open account that holds no other notices. -/
theorem kept_account (f : Account → Account) (h : ∀ a, (f a).held = a.held) : Kept s { s with account := s.account.map f } where
  held hs a ha := by
    obtain ⟨b, hb, rfl⟩ := Option.map_eq_some_iff.1 ha
    rw [h]
    exact hs b hb

theorem countFrame_kept : Kept s s.countFrame := kept_account _ fun _ => rfl

theorem countUpdate_kept (w : WindowNo) : Kept s (s.countUpdate w) := kept_account _ fun _ => rfl

theorem countCorrupt_kept : Kept s s.countCorrupt := kept_account _ fun _ => rfl

theorem armAccount_kept (k : Nat) : Kept s (s.armAccount k) := kept_account _ fun _ => rfl

theorem admitUpdate_kept (peer : Option StationNo) (w : WindowNo) (first : BitVec 4) (block : BitVec 10)
    (words : List Word) : Kept s (s.admitUpdate peer w first block words) := by
  unfold State.admitUpdate
  split
  · split
    · exact .refl s
    · next b hb =>
      refine kept_claims fun hs c hc => ?_
      obtain rfl := List.mem_singleton.1 hc
      exact storeBlock_lt hs hb
  · exact .refl s

theorem takeUpd_kept (h : Header) (w : WindowNo) (first : BitVec 4) (block : BitVec 10) (words : List Word) :
    Kept s (s.takeUpd h w first block words) := by
  unfold State.takeUpd
  split
  · exact .refl s
  · split
    · exact loss_kept w
    · exact (countFrame_kept.trans (countUpdate_kept w)).trans (admitUpdate_kept _ _ _ _ _)

theorem underAccount_kept (h : Header) {act : State → State} (ha : ∀ s, Kept s (act s)) :
    Kept s (s.underAccount h act) := by
  unfold State.underAccount
  split
  · exact .refl s
  · split
    · exact .refl s
    · exact countFrame_kept.trans (ha _)

theorem takeNtc_kept (h : Header) (target : Byte) (level : BitVec 3) (tag : Half) :
    Kept s (s.takeNtc h target level tag) := by
  unfold State.takeNtc
  split
  · unfold State.takeNotice
    split
    · exact .refl s
    · split
      · exact deliver_kept _
      · split
        next hroom =>
          refine { held := fun _ a ha => ?_ }
          cases ha
          rw [List.length_append]
          exact hroom
        next => exact .refl s
  · exact .refl s

theorem graceExpired_kept (k : Nat) : Kept s (s.graceExpired k) := by
  unfold State.graceExpired
  split
  · exact .refl s
  · split
    · exact endUnclosed_kept _ _
    · exact .refl s

/-! ## The line and the own slots -/

theorem lineActivity_kept : Kept s s.lineActivity := by
  unfold State.lineActivity
  split <;> exact {}

theorem corruptReport_kept : Kept s s.corruptReport := by
  unfold State.corruptReport
  split
  · exact lineActivity_kept.trans countCorrupt_kept
  · exact lineActivity_kept

theorem setReceiver_kept (r : Receiver) : Kept s (s.setReceiver r) where

theorem endDiscardRun_kept : Kept s s.endDiscardRun := by
  unfold State.endDiscardRun
  split
  · exact corruptReport_kept
  · exact .refl s

theorem takeFrame_kept (p : Profile) (f : Filling) (b : FrameBody) : Kept s (s.takeFrame p f b) := by
  unfold State.takeFrame
  dsimp only
  split
  · exact Kept.trans (corruptReport_kept.trans (setReceiver_kept .hunting)) {}
  · exact {}

theorem driveOut_kept (x : Sending) : Kept s (s.driveOut x) := by
  unfold State.driveOut
  split <;> exact {}

theorem endFrame_kept (x : Sending) : Kept s (s.endFrame x) := (driveOut_kept x).trans line_kept

theorem receive_kept (h : Header) (b : FrameBody) {act : State → State} (ha : ∀ s, Kept s (act s)) :
    Kept s (s.receive h b act) := by
  have hready : Kept s (s.endDiscardRun.setReceiver .hunting) := endDiscardRun_kept.trans (setReceiver_kept _)
  unfold State.receive
  split
  · dsimp only
    split
    · exact hready.trans corruptReport_kept
    · exact (hready.trans lineActivity_kept).trans (ha _)
  · exact .refl s

theorem setFilling_kept (f : Filling) : Kept s (s.setFilling f) where

theorem offerOpen_kept (p : Profile) (f : Filling) : Kept s (s.offerOpen p f) := by
  unfold State.offerOpen
  split
  · exact setFilling_kept f
  · exact (takeFrame_kept p f _).trans (setFilling_kept _)

theorem openSlot_kept (p : Profile) (k : Nat) (round : Half) (count : Nat) : Kept s (s.openSlot p k round count) :=
  Kept.trans (t := { s with lastOpened := some (round, k) }) {} (offerOpen_kept p _)

theorem ownSlotStart_kept (p : Profile) (k : Nat) : Kept s (s.ownSlotStart p k) := by
  unfold State.ownSlotStart
  cases s.station with
  | coldStart | active =>
    dsimp only
    split
    · exact .refl s
    · split
      · exact openSlot_kept p k _ _
      · exact setFilling_kept _
  | leaving =>
    dsimp only
    split
    · exact .refl s
    · split
      · exact openSlot_kept p k _ _
      · split
        · exact .refl s
        · exact setFilling_kept _
  | _ => exact .refl s

theorem slotStarted_kept (p : Profile) (k : Nat) : Kept s (s.slotStarted p k) := by
  unfold State.slotStarted
  split
  · exact (armAccount_kept k).trans (ownSlotStart_kept p k)
  · exact armAccount_kept k

theorem sendFrame_kept (p : Profile) (f : Filling) (b : FrameBody) : Kept s (s.sendFrame p f b) :=
  (takeFrame_kept p f b).trans (setFilling_kept _)

theorem offerClose_kept (p : Profile) (f : Filling) : Kept s (s.offerClose p f) :=
  (takeFrame_kept p f _).trans (setFilling_kept _)

theorem offerCopy_kept (p : Profile) (f : Filling) : Kept s (s.offerCopy p f) := by
  unfold State.offerCopy
  split
  · split
    · exact offerClose_kept p f
    · dsimp only
      split
      · exact setFilling_kept _
      · exact (setFilling_kept _).trans line_kept
  · exact offerClose_kept p f

theorem offerOutbound_kept (p : Profile) (f : Filling) : Kept s (s.offerOutbound p f) := by
  unfold State.offerOutbound
  split
  · next w block first words sealed rest heq =>
    split
    · refine Kept.trans (t := { s with outbound := .update w block first words true :: rest })
        { outbound := fun h => ?_, fences := fun _ => rfl } (sendFrame_kept p _ _)
      rw [heq] at h
      exact h
    · exact offerCopy_kept p f
  · split
    · exact sendFrame_kept p _ _
    · exact offerCopy_kept p f
  · exact offerCopy_kept p f
  · exact offerCopy_kept p f

theorem offerControl_kept (p : Profile) (f : Filling) : Kept s (s.offerControl p f) := by
  unfold State.offerControl
  split
  · next b rest heq =>
    split
    · refine Kept.trans (t := { s with control := rest })
        { control := fun h => ?_, controlFrames := fun h b hb => ?_ } (sendFrame_kept p _ _)
      · rw [heq] at h
        exact (Nat.le_succ _).trans h
      · exact h b (heq ▸ List.mem_cons_of_mem _ hb)
    · exact offerOutbound_kept p f
  · exact offerOutbound_kept p f

theorem offerNext_kept (p : Profile) (f : Filling) : Kept s (s.offerNext p f) := by
  unfold State.offerNext
  cases f.step with
  | opening => exact offerOpen_kept p f
  | control => exact offerControl_kept p f
  | outbound => exact offerOutbound_kept p f
  | copy => exact offerCopy_kept p f
  | close => exact offerClose_kept p f
  | opened | closing | abandoned => exact .refl s

theorem releaseCopyRead_kept : Kept s s.releaseCopyRead where

theorem offerBlock_kept (p : Profile) (f : Filling) (r : ServingRecord) (next : Nat) (words : List Word) :
    Kept s (s.offerBlock p f r next words) := by
  unfold State.offerBlock
  split
  · refine Kept.trans (t := { s with copyRead := none }) {} ?_
    exact (sendFrame_kept p _ _).trans (advanceServing_kept _ _)
  · exact releaseCopyRead_kept

theorem slotEnded_kept (p : Profile) (k : Nat) : Kept s (s.slotEnded p k) := by
  unfold State.slotEnded
  split
  · split
    · exact .refl s
    · next f _ =>
      have hheld : Kept s { s.setFilling f.restrict with copyRead := none } :=
        (setFilling_kept _).trans line_kept
      dsimp only
      split
      · exact hheld.trans (offerClose_kept p _)
      · exact hheld
  · exact .refl s

theorem passTo_kept (n : Nat) : Kept s (s.passTo n) := by
  unfold State.passTo
  split <;> exact {}

/-! ## The station states -/

theorem flushOutbound_kept : Kept s s.flushOutbound :=
  Kept.trans (t := { s with outbound := [] }) { outbound := fun _ => Nat.zero_le _, fences := fun _ => rfl }
    ((fenceEvents_kept _ _).trans (event_kept _ _))

theorem clearLine_kept (p : Profile) (next : StationState) : Kept s (s.clearLine p next) where
  control _ := Nat.zero_le _
  controlFrames _ _ hb := nomatch hb
  serving _ := Nat.zero_le _
  held _ _ ha := nomatch ha

theorem goStale_holding (r : WindowRecord) : r.goStale.holding = r.holding := by
  unfold WindowRecord.goStale
  split <;> rfl

theorem coldCurrent_holding (r : WindowRecord) : r.coldCurrent.holding = r.holding := by
  unfold WindowRecord.coldCurrent
  split <;> rfl

theorem comeOff_kept (p : Profile) (next : StationState) (cause : StationCause) : Kept s (s.comeOff p next cause) := by
  unfold State.comeOff
  refine Kept.trans ?_ (deliverAll_kept _)
  refine Kept.trans ?_ (clearLine_kept p next)
  refine Kept.trans ?_ (mapWindows_kept _ goStale_holding)
  exact (enter_kept next cause _).trans flushOutbound_kept

theorem takeSyncLoss_kept : Kept s s.takeSyncLoss := by
  unfold State.takeSyncLoss
  split
  · exact .refl s
  · split
    · exact comeOff_kept _ _ _
    · exact .refl s

theorem coldStartIntact_kept : Kept s s.coldStartIntact := by
  unfold State.coldStartIntact
  refine Kept.trans ?_ line_kept
  refine Kept.trans ?_ (mapWindows_kept _ coldCurrent_holding)
  exact (enter_kept _ _ _).trans (Kept.foldl (fun s w => event_kept (s := s) _ _) _ _)

theorem coldStartLost_kept (p : Profile) : Kept s (s.coldStartLost p) := (enter_kept .standoff .coldOpenLost 0).trans line_kept

theorem enterColdStart_kept (p : Profile) : Kept s (s.enterColdStart p) := by
  unfold State.enterColdStart
  dsimp only
  refine Kept.trans ?_ (slotStarted_kept p _)
  exact (enter_kept .coldStart .quietExpired 0).trans line_kept

theorem joinExpired_kept (p : Profile) : Kept s (s.joinExpired p) := by
  unfold State.joinExpired
  split
  · exact (enter_kept .muted .joinLimit 0).trans line_kept
  · exact {}

theorem standoffExpired_kept (p : Profile) : Kept s (s.standoffExpired p) :=
  (enter_kept .listening .standoffExpired 0).trans line_kept

theorem enterListening_kept (p : Profile) : Kept s (s.enterListening p) := (enter_kept .listening .join 0).trans line_kept

theorem leaveAtOnce_kept : Kept s s.leaveAtOnce := (enter_kept .configured .leave 0).trans line_kept

theorem enterLeaving_kept : Kept s s.enterLeaving := by
  unfold State.enterLeaving
  dsimp only
  refine Kept.trans ?_ (mapWindows_kept _ fun _ => rfl)
  refine Kept.trans ?_ abortAllServing_kept
  exact Kept.trans (t := (s.enter .leaving .leave 0).dropForLeave) ((enter_kept _ _ _).trans dropForLeave_kept) {}

theorem coldLeaveDone_kept : Kept s s.coldLeaveDone := (enter_kept .configured .leaveDone 0).trans line_kept

/-! ## The round -/

theorem endRound_kept : Kept s s.endRound where

theorem testRound_kept : Kept s s.testRound := by
  unfold State.testRound
  split <;> exact {}

theorem runTask_kept (task : RoundEndTask) : Kept s (s.runTask task) := by
  cases task with
  | misalignedTest => exact testRound_kept.trans takeSyncLoss_kept
  | silence => exact examineRoster_kept.trans departSilent_kept
  | coldMarks => exact reduceColdMarks_kept
  | resyncTimers =>
    exact reduceTimers_kept.trans ((expireWait_kept.trans tryBegin_kept).trans (expireStall_kept.trans tryBegin_kept))
  | offerLapse => exact lapseOffers_kept

theorem passRoundEnd_kept (order : List RoundEndTask) : Kept s (s.passRoundEnd order) :=
  endRound_kept.trans (Kept.foldl (fun s task => runTask_kept (s := s) task) _ _)

theorem raise_kept (p : Profile) (order : List RoundEndTask) (s : State) (x : Happening) :
    Kept s (State.raise p order s x) := by
  cases x with
  | slotEnd k => exact slotEnded_kept p k
  | slotStart k => exact slotStarted_kept p k
  | graceExpiry k => exact (graceExpired_kept k).trans tryBegin_kept
  | roundEnd => exact passRoundEnd_kept order

theorem moveForward_kept (p : Profile) (order : List RoundEndTask) : ∀ (n : Nat) (s : State),
    Kept s (State.moveForward p order n s)
  | 0, s => .refl s
  | n + 1, s => by
    unfold State.moveForward
    split
    · exact .refl s
    · next at' _ =>
      have hreach : Kept s (s.reach (at' + 1)) := {}
      exact (hreach.trans (Kept.foldl (raise_kept p order) _ _)).trans (moveForward_kept p order n _)

theorem align_kept (p : Profile) (k instant : Nat) (round : Half) (order : List RoundEndTask) :
    Kept s (s.align p k instant round order) := by
  have hmarked : Kept s (s.passTo instant).markOnTime := (passTo_kept instant).trans line_kept
  unfold State.align
  dsimp only
  split
  · exact (hmarked.trans (moveForward_kept p order _ _)).trans line_kept
  · exact hmarked.trans line_kept

theorem joinLine_kept (p : Profile) (h : Header) : Kept s (s.joinLine p h) := by
  refine Kept.trans (t := { s with clock := { (s.clock.leaveRunning).stopTimers with
    position := some (p.openEnd h.slotIndex.toNat), round := h.round, onTimeMark := true, foreignMark := false } })
    line_kept ?_
  exact (enter_kept .active .matchingOpen h.sender.toNat).trans line_kept

theorem openForeign_kept (h : Header) (leaving : Bool) : Kept s (s.openForeign h leaving) := by
  unfold State.openForeign
  dsimp only
  refine Kept.trans ?_ (takeOpen_kept h leaving true)
  exact Kept.trans (t := { s with clock := _ }) {} (depart_kept h.sender .foreign .foreign)

theorem openListening_kept (p : Profile) (h : Header) (digest : Half) (cold leaving : Bool) (current : WindowSet) :
    Kept s (s.openListening p h digest cold leaving current) := by
  unfold State.openListening
  split
  · exact openForeign_kept h leaving
  · split
    · exact rosterSeen_kept h leaving current
    · exact ((joinLine_kept p h).trans (rosterHeard_kept h cold leaving current)).trans (takeOpen_kept h leaving false)

theorem openRunning_kept (p : Profile) (h : Header) (digest : Half) (cold leaving : Bool) (current : WindowSet)
    (instant : Nat) (order : List RoundEndTask) :
    Kept s (s.openRunning p h digest cold leaving current instant order) := by
  unfold State.openRunning
  split
  · exact (passTo_kept instant).trans (openForeign_kept h leaving)
  · split
    · refine Kept.trans ?_ (takeOpen_kept h leaving false)
      refine Kept.trans ?_ (rosterHeard_kept h cold leaving current)
      exact (align_kept p _ _ _ _).trans (contest_kept p _ _ _)
    · refine Kept.trans ?_ (takeOpen_kept h leaving false)
      refine Kept.trans ?_ (rosterSeen_kept h leaving current)
      refine Kept.trans ?_ (contest_kept p _ _ _)
      exact (passTo_kept instant).trans line_kept

theorem openReported_kept (h : Header) (digest : Half) (cold leaving : Bool) (current : WindowSet) (instant : Nat)
    (order : List RoundEndTask) : Kept s (s.openReported h digest cold leaving current instant order) := by
  unfold State.openReported
  split
  · exact .refl s
  · cases s.station with
    | listening => exact openListening_kept _ h digest cold leaving current
    | coldStart | active | leaving => exact openRunning_kept _ h digest cold leaving current _ order
    | _ => exact .refl s

/-! ## Readbacks -/

theorem goOn_kept : Kept s s.goOn where

theorem closeNow_kept : Kept s s.closeNow := by
  unfold State.closeNow
  split
  · exact offerClose_kept _ _
  · exact .refl s

theorem frameLost_kept (h : Header) (lost : LostFrame) : Kept s (s.frameLost h lost) := appendEvent_kept _

theorem openReadBack_kept (p : Profile) (h : Header) (intact : Bool) : Kept s (s.openReadBack p h intact) := by
  have hcold : Kept s (s.coldOpenReported p intact) := by
    unfold State.coldOpenReported
    split
    · exact closeNow_kept
    · split
      · exact coldStartIntact_kept.trans goOn_kept
      · exact coldStartLost_kept p
  have hown : Kept s (s.ownOpenReported p h intact) := by
    unfold State.ownOpenReported
    split
    · refine Kept.trans (t := { s with openFailures := 0 }) {} ?_
      exact ((endAccount_kept _).trans goOn_kept).trans tryBegin_kept
    · split
      · refine Kept.trans (t := { s with openFailures := 1 }) {} ?_
        exact (frameLost_kept _ _).trans goOn_kept
      · exact comeOff_kept _ _ _
  unfold State.openReadBack
  cases s.station with
  | coldStart => exact hcold
  | active | leaving => exact hown
  | _ => exact .refl s

theorem ownUpdReported_kept (h : Header) (w : WindowNo) (first : BitVec 4) (block : BitVec 10) (words : List Word)
    (intact : Bool) : Kept s (s.ownUpdReported h w first block words intact) := by
  unfold State.ownUpdReported
  split
  · exact admitUpdate_kept _ _ _ _ _
  · exact (frameLost_kept _ _).trans (loss_kept _)

/-- The head of the Outbound Queue may uncover a FENCE, which then completes. -/
theorem popOutbound_boundsKept : BoundsKept s s.popOutbound where
  outbound h := (List.length_tail.trans_le (Nat.sub_le _ _)).trans h

/-- With the FENCE entries at the head completed, none is left there. -/
theorem BoundsKept.completeFences (h : BoundsKept s t) : Kept s t.completeFences where
  toBoundsKept := h.trans completeFences_kept.toBoundsKept
  fences _ := completeFences_outbound ▸ fencesAtHead_dropFences _

theorem endSlot_kept : Kept s s.endSlot := by
  unfold State.endSlot
  split
  · dsimp only
    split
    · exact {}
    · split
      · exact Kept.trans (t := { s with filler := none }) {} (openSlot_kept _ _ _ _)
      · exact {}
  · exact .refl s

theorem closeReadBack_kept (p : Profile) : Kept s (s.closeReadBack p) := by
  unfold State.closeReadBack
  split
  · exact .refl s
  · split
    · exact Kept.trans (t := { s with filler := none }) {} (comeOff_kept p _ _)
    · split
      · exact Kept.trans (t := { s with filler := none }) {} coldLeaveDone_kept
      · exact endSlot_kept

end Sys2Proof.Proofs

/-! The limits of every queue and list (R97, R102, R115, R145, R159, R169) and the store's blocks (R15) are kept by every row of
the table: a row of the line by what its operations keep, a host command by its outcome, a store row by the block it names. -/

namespace Sys2Proof.Proofs

-- One proof at a time: every further thread of the elaborator counts against the memory limit.
set_option Elab.async false

open Sys2Proof Sys2Proof.Machine Sys2Proof.Laws

variable {s t u : State}

/-! ## The rows of the line -/

theorem applying_kept {act : State → State} (ha : ∀ s, Kept s (act s)) : Kept s (s.applying act) := by
  unfold State.applying
  split
  · exact ha s
  · exact .refl s

theorem receive_applying_kept (h : Header) (b : FrameBody) {act : State → State} (ha : ∀ s, Kept s (act s)) :
    Kept s (s.receive h b fun s => s.applying act) :=
  receive_kept h b fun _ => applying_kept ha

theorem execOpenReadback_kept {intact : Bool} (h : execOpenReadback intact s = .next t) : Kept s t := by
  unfold execOpenReadback at h
  split at h
  · dsimp only at h
    split at h <;> cases h
    · exact (endFrame_kept _).trans (openReadBack_kept _ _ _)
    · exact endFrame_kept _
  · cases h
    exact .refl s

theorem execUpdReadback_kept {intact : Bool} (h : execUpdReadback intact s = .next t) : Kept s t := by
  unfold execUpdReadback at h
  split at h
  · next hd w first block words start _ =>
    dsimp only at h
    split at h <;> cases h
    · have hended := (endFrame_kept (s := s) ⟨⟨hd, .upd w first block words⟩, start⟩).toBoundsKept
      have hreported := (hended.trans popOutbound_boundsKept).trans
        (ownUpdReported_kept hd w first block words intact).toBoundsKept
      exact hreported.completeFences.trans tryBegin_kept
    · exact endFrame_kept _
  · cases h
    exact .refl s

theorem execNtcReadback_kept {intact : Bool} (h : execNtcReadback intact s = .next t) : Kept s t := by
  unfold execNtcReadback at h
  split at h
  · next hd target level tag start _ =>
    dsimp only at h
    split at h <;> cases h
    · have hpopped := (endFrame_kept (s := s) ⟨⟨hd, .ntc target level tag⟩, start⟩).toBoundsKept.trans
        popOutbound_boundsKept
      refine BoundsKept.completeFences ?_
      split
      · exact hpopped
      · exact hpopped.trans (frameLost_kept _ _).toBoundsKept
    · exact endFrame_kept _
  · cases h
    exact .refl s

theorem execCloseReadback_kept {intact : Bool} (h : execCloseReadback intact s = .next t) : Kept s t := by
  unfold execCloseReadback at h
  split at h
  · dsimp only at h
    split at h <;> cases h
    · exact (endFrame_kept _).trans (closeReadBack_kept _)
    · exact endFrame_kept _
  · cases h
    exact .refl s

theorem exec_ofLine_kept {i : Instr} (hi : ofLine i = true) (h : exec i s = .next t) : Kept s t := by
  cases i with
  | openReceived =>
    cases h
    exact receive_kept _ _ fun s => (openReported_kept _ _ _ _ _ _ _).trans tryBegin_kept
  | closeReceived =>
    cases h
    exact receive_applying_kept _ _ fun s => (takeClose_kept _ _ _ _).trans tryBegin_kept
  | updReceived =>
    cases h
    exact receive_applying_kept _ _ fun s => (takeUpd_kept _ _ _ _ _).trans tryBegin_kept
  | ntcReceived =>
    cases h
    exact receive_applying_kept _ _ fun s => underAccount_kept _ fun s => takeNtc_kept _ _ _ _
  | creqReceived =>
    cases h
    exact receive_applying_kept _ _ fun s => underAccount_kept _ fun s => takeCreq_kept _ _ _ _
  | cbegReceived =>
    cases h
    refine receive_applying_kept _ _ fun s => underAccount_kept _ fun s => ?_
    split
    · exact joinerCbeg_kept _ _
    · exact withdrawOffer_kept _ _
  | cblkReceived =>
    cases h
    refine receive_applying_kept _ _ fun s => underAccount_kept _ fun s => ?_
    split
    · exact joinerCblk_kept _ _ _ _
    · exact .refl s
  | cendReceived =>
    cases h
    refine receive_applying_kept _ _ fun s => underAccount_kept _ fun s => ?_
    split
    · exact (joinerCend_kept _ _).trans tryBegin_kept
    · exact .refl s
  | ccanReceived =>
    cases h
    refine receive_applying_kept _ _ fun s => underAccount_kept _ fun s => ?_
    split
    · exact clearOffer_kept _ _
    · exact .refl s
  | cabtReceived =>
    cases h
    refine receive_applying_kept _ _ fun s => underAccount_kept _ fun s => ?_
    split
    · exact (joinerCabt_kept _ _).trans tryBegin_kept
    · exact .refl s
  | corruptReception =>
    cases h
    split
    · exact corruptReport_kept.trans (setReceiver_kept _)
    · exact .refl s
  | openReadback => exact execOpenReadback_kept h
  | updReadback => exact execUpdReadback_kept h
  | ntcReadback => exact execNtcReadback_kept h
  | creqReadback intact =>
    change execCreqReadback intact s = _ at h
    unfold execCreqReadback at h
    split at h <;> cases h
    · exact (endFrame_kept _).trans (creqReported_kept _ _)
    · exact .refl s
  | cbegReadback intact =>
    change execCbegReadback intact s = _ at h
    unfold execCbegReadback at h
    split at h <;> cases h
    · exact (endFrame_kept _).trans (cbegReported_kept _ _)
    · exact .refl s
  | closeReadback intact => exact execCloseReadback_kept (intact := intact) h
  | otherFrameReadback intact =>
    change execOtherFrameReadback intact s = _ at h
    unfold execOtherFrameReadback at h
    split at h
    · cases h
      exact .refl s
    · split at h <;> cases h
      · exact endFrame_kept _
      · exact .refl s
  | slotStart k =>
    change execSlotStart k s = _ at h
    unfold execSlotStart at h
    split at h
    · cases h
      exact .refl s
    · split at h <;> cases h
      · exact (passTo_kept _).trans (slotStarted_kept _ _)
      · exact .refl s
  | slotFrameOffer =>
    change execSlotFrameOffer s = _ at h
    unfold execSlotFrameOffer at h
    split at h
    · split at h <;> cases h
      · exact .refl s
      · exact offerNext_kept _ _
    · cases h
      exact .refl s
  | openGraceExpiry k =>
    change execOpenGraceExpiry k s = _ at h
    unfold execOpenGraceExpiry at h
    split at h
    · cases h
      exact .refl s
    · split at h <;> cases h
      · exact ((passTo_kept _).trans (graceExpired_kept _)).trans tryBegin_kept
      · exact .refl s
  | slotEnd k =>
    change execSlotEnd k s = _ at h
    unfold execSlotEnd at h
    split at h
    · cases h
      exact .refl s
    · split at h <;> cases h
      · exact (passTo_kept _).trans (slotEnded_kept _ _)
      · exact .refl s
  | roundEnd =>
    change execRoundEnd s = _ at h
    unfold execRoundEnd at h
    split at h <;> cases h
    · exact .refl s
    · split
      · exact ((passTo_kept _).trans endRound_kept).trans reduceTimers_kept
      · exact .refl s
  | misalignedRoundTest =>
    cases h
    exact testRound_kept
  | syncLoss =>
    cases h
    exact takeSyncLoss_kept
  | rosterSilenceCheck =>
    cases h
    exact examineRoster_kept
  | peerSilent station =>
    cases h
    exact (silentPeer_kept station).trans tryBegin_kept
  | coldMarkReduction =>
    cases h
    exact reduceColdMarks_kept
  | waitTimerExpiry =>
    cases h
    exact expireWait_kept.trans tryBegin_kept
  | stallTimerExpiry =>
    cases h
    exact expireStall_kept.trans tryBegin_kept
  | offerLapse =>
    cases h
    exact lapseOffers_kept
  | quietTimerExpiry =>
    change execQuietTimerExpiry s = _ at h
    unfold execQuietTimerExpiry at h
    split at h
    · cases h
      exact .refl s
    · split at h <;> cases h
      · exact enterColdStart_kept _
      · exact .refl s
  | joinTimerExpiry =>
    change execJoinTimerExpiry s = _ at h
    unfold execJoinTimerExpiry at h
    split at h
    · cases h
      exact .refl s
    · split at h <;> cases h
      · exact joinExpired_kept _
      · exact .refl s
  | standoffTimerExpiry =>
    change execStandoffTimerExpiry s = _ at h
    unfold execStandoffTimerExpiry at h
    split at h
    · cases h
      exact .refl s
    · split at h <;> cases h
      · exact standoffExpired_kept _
      · exact .refl s
  | leadFound =>
    cases h
    split
    · exact endDiscardRun_kept.trans (setReceiver_kept _)
    · exact .refl s
  | discardRunStart =>
    cases h
    split
    · exact setReceiver_kept _
    · exact .refl s
  | _ => cases hi

/-! ## The host's commands -/

theorem complete_kept (status : CompletionStatus) : Kept s (s.complete status) where

theorem completeBytes_kept (status : CompletionStatus) (bytes : List Byte) : Kept s (s.completeBytes status bytes) where

theorem onHeldWindow_kept {act : State → WindowNo → State} (h : ∀ s w, Kept s (act s w)) : Kept s (s.onHeldWindow act) := by
  unfold State.onHeldWindow
  split
  · split
    · exact complete_kept _
    · split
      · exact (h _ _).trans (complete_kept _)
      · exact complete_kept _
  · exact complete_kept _

theorem reset_levelFits : ∀ i : Fin 7, levelFits (State.reset.notices.queue i) := by
  unfold levelFits
  decide

/-- RESET_STATION leaves nothing that could exceed a limit or lie outside the store. -/
theorem takeReset_kept : Kept s s.takeReset where
  outbound _ := Nat.zero_le _
  control _ := Nat.zero_le _
  controlFrames _ _ hb := nomatch hb
  serving _ := Nat.zero_le _
  held _ _ ha := nomatch ha
  events _ := ⟨Nat.zero_le _, fun h => nomatch h⟩
  notices _ := reset_levelFits
  spans _ w hd h := by
    change ((Vector.replicate 32 ({} : WindowRecord))[w]).holding = some hd at h
    simp at h
  claims _ _ _ hc := nomatch hc
  initPass _ _ hb := nomatch hb
  fences _ := rfl

theorem takeFence_kept : Kept s s.takeFence := by
  unfold State.takeFence
  split
  · split
    · split
      next hroom =>
        have happended : BoundsKept s (s.appendOutbound (.fence ((s.operand 0).setWidth 16))) :=
          { outbound := fun _ => List.length_append.trans_le hroom }
        exact happended.completeFences.trans (complete_kept _)
      next => exact complete_kept _
    · exact complete_kept _
  · exact complete_kept _

/-- A FENCE behind another entry is not at the head. -/
theorem fencesAtHead_append {l : List OutboundEntry} {e : OutboundEntry} (hl : fencesAtHead l = [])
    (he : fencesAtHead [e] = []) : fencesAtHead (l ++ [e]) = [] := by
  cases l with
  | nil => exact he
  | cons x l =>
    cases x with
    | fence => cases hl
    | update | notice => rfl

theorem takeSendNotice_kept : Kept s s.takeSendNotice := by
  unfold State.takeSendNotice
  split
  · split
    · split
      next hroom =>
        refine Kept.trans (t := s.appendOutbound _)
          { outbound := fun _ => ?_, fences := fun h => ?_ } (complete_kept _)
        · exact List.length_append.trans_le hroom
        · exact fencesAtHead_append h rfl
      next => exact complete_kept _
    · exact complete_kept _
  · exact complete_kept _

theorem takeTakeNotice_kept : Kept s s.takeTakeNotice := by
  unfold State.takeTakeNotice
  split
  · exact complete_kept _
  · next i _ =>
    split
    · exact complete_kept _
    · next n rest hq =>
      refine Kept.trans (t := { s with notices := s.notices.setQueue i { notices := rest, overrun := false } })
        { notices := fun h => setQueue_fits ⟨?_, fun h => nomatch h⟩ h } (completeBytes_kept _ _)
      have hlen := (h i).1
      rw [hq] at hlen
      exact (Nat.le_succ _).trans hlen

theorem takeTakeEvent_kept : Kept s s.takeTakeEvent := by
  unfold State.takeTakeEvent
  split
  · exact complete_kept _
  · next e rest hev =>
    refine Kept.trans (t := { s with events := rest, eventOverflow := false })
      { events := fun h => ⟨?_, fun h => nomatch h⟩ } (completeBytes_kept _ _)
    have hlen := h.1
    rw [hev] at hlen
    exact (Nat.le_succ _).trans hlen

theorem runCommand_kept (s : State) (code : Nat) : Kept s (s.runCommand code) := by
  apply runCommand_of_all
  case configure =>
    unfold State.takeConfigure
    cases s.station with
    | unconfigured | configured => exact {}
    | _ => exact complete_kept _
  case join =>
    unfold State.takeJoin
    cases s.station with
    | configured =>
      cases s.profile with
      | none => exact complete_kept _
      | some p => exact (enterListening_kept p).trans (complete_kept _)
    | _ => exact complete_kept _
  case leave =>
    unfold State.takeLeave
    cases s.station with
    | active => exact enterLeaving_kept.trans (complete_kept _)
    | listening | standoff | muted => exact leaveAtOnce_kept.trans (complete_kept _)
    | coldStart =>
      refine Kept.trans ?_ (complete_kept .done)
      exact line_kept
    | _ => exact complete_kept _
  case reset => exact takeReset_kept
  case declare => exact onHeldWindow_kept fun s w => (declareWindow_kept w).trans tryBegin_kept
  case resync => exact onHeldWindow_kept fun s w => (resyncWindow_kept w).trans tryBegin_kept
  case watch =>
    unfold State.takeWatch
    split
    · exact complete_kept _
    · split
      · exact complete_kept _
      · split
        · refine Kept.trans ?_ (complete_kept _)
          exact setWindow_kept _ _ rfl
        · exact complete_kept _
  case clearWritten =>
    unfold State.takeClearWritten
    split
    · exact complete_kept _
    · split
      · exact complete_kept _
      · refine Kept.trans ?_ (complete_kept _)
        exact setWindow_kept _ _ rfl
  case sendNotice => exact takeSendNotice_kept
  case takeNotice => exact takeTakeNotice_kept
  case setThreshold =>
    unfold State.takeSetThreshold
    split
    · exact Kept.trans (t := { s with notices := { s.notices with threshold := (s.operand 0).toNat } })
        { notices := id } (complete_kept _)
    · exact complete_kept _
  case fence => exact takeFence_kept
  case takeEvent => exact takeTakeEvent_kept
  case windowStatus =>
    unfold State.takeWindowStatus
    split
    · exact complete_kept _
    · split
      · exact complete_kept _
      · exact completeBytes_kept _ _
  case rosterStatus =>
    unfold State.takeRosterStatus
    split
    · split <;> exact completeBytes_kept _ _
    · exact complete_kept _
  case stationStatus => exact completeBytes_kept _ _
  case refused => exact complete_kept _

theorem issue_kept (s : State) : Kept s s.issue := by
  unfold State.issue
  split
  · exact complete_kept _
  · exact runCommand_kept _ _

theorem command_kept (s : State) (code : Nat) (operands : List Word) (tag : Word) : Kept s (s.command code operands tag) :=
  Kept.trans (t := s.fillCommand code operands tag) {} (issue_kept _)

/-! ## CONFIGURE_COMPLETE -/

/-- An entry that passes the checks of R3 and holds its window has its span in the store. -/
theorem span_of_failure_none {before : List RawWindow} {r : RawWindow} (h : r.failure before = none)
    (hheld : r.accessCode ≠ 0) : r.base + r.count ≤ 8192 := by
  by_contra hspan
  unfold RawWindow.failure at h
  grind

theorem spans_of_windowsFailure_none : ∀ (l before : List RawWindow) (w : Nat), windowsFailure before w l = none →
    ∀ r ∈ l, r.accessCode ≠ 0 → r.base + r.count ≤ 8192
  | [], _, _, _, _, hr, _ => nomatch hr
  | x :: l, before, w, h, r, hr, hheld => by
    unfold windowsFailure at h
    split at h
    · cases h
    · next hx =>
      rcases List.mem_cons.1 hr with rfl | hr
      · exact span_of_failure_none hx hheld
      · exact spans_of_windowsFailure_none l _ _ h r hr hheld

theorem windowsFailure_of_failure_none {p : RawProfile} (h : p.failure = none) : windowsFailure [] 0 p.windows = none := by
  unfold RawProfile.failure at h
  split at h
  · cases h
  · grind

theorem records_fit {p : RawProfile} (h : p.failure = none) : spansFit p.records := by
  intro w hd hhd
  have hw : p.records[w] = match p.windows[w.val]? with | none => {} | some r => r.install := by
    unfold RawProfile.records
    exact Vector.getElem_ofFn _
  rw [hw] at hhd
  split at hhd
  · cases hhd
  · next r hr =>
    unfold RawWindow.install at hhd
    dsimp only at hhd
    split at hhd <;> cases hhd
    next hheld =>
    refine spans_of_windowsFailure_none _ _ _ (windowsFailure_of_failure_none h) r (List.mem_of_getElem? hr) fun h0 => ?_
    simp [RawWindow.held, h0] at hheld

theorem configureDone_kept (c : ConfigureInFlight) : Kept s (s.configureDone c) := by
  unfold State.configureDone
  dsimp only
  split
  · exact {}
  · next hp =>
    refine Kept.trans (t := s.installProfile (readRawProfile c.staged))
      { serving := fun _ => Nat.zero_le _, spans := fun _ => records_fit hp } ?_
    refine Kept.trans (t := (s.installProfile (readRawProfile c.staged)).nowConfigured) ?_ ?_
    · unfold State.nowConfigured
      split
      · exact enter_kept _ _ _
      · exact .refl _
    · refine Kept.trans (t := State.configureEvents _ s) (Kept.foldl (fun s w => ?_) _ _) {}
      split
      · exact .refl _
      · exact event_kept _ _

/-! ## The store's rows -/

theorem hostFault_kept (a : HostAccess) (kind : AccessFault) : Kept s (s.hostFault a kind) :=
  Kept.trans (t := s.respond _) {} (event_kept _ _)

theorem dropLast_append_getLast?_length (l : List OutboundEntry) (f : OutboundEntry → OutboundEntry) :
    (l.dropLast ++ (l.getLast?.map f).toList).length = l.length := by
  rcases l.eq_nil_or_concat' with rfl | ⟨l, e, rfl⟩
  · rfl
  · simp

/-- A write that merges into the tail leaves the head what it was, or an UPDATE. -/
theorem fencesAtHead_merge {l : List OutboundEntry} (word : Nat) (v : Word) (h : fencesAtHead l = []) :
    fencesAtHead (l.dropLast ++ (l.getLast?.map fun e => e.merge word v).toList) = [] := by
  cases l with
  | nil => rfl
  | cons x l =>
    cases x with
    | fence => cases h
    | update =>
      cases l with
      | nil =>
        simp only [List.dropLast_singleton, List.getLast?_singleton, Option.map_some, Option.toList_some,
          List.nil_append, OutboundEntry.merge]
        split <;> rfl
      | cons y l => rfl
    | notice =>
      cases l with
      | nil => rfl
      | cons y l => rfl

/-- An access whose checks pass finds room in the Outbound Queue where it is an on-line write (check 7c of R9). -/
theorem queueTakes_of_accessFault_none {a : HostAccess} (h : s.accessFault a = none) (hon : s.station.takesPart = true)
    (hw : a.isWrite = true) : s.queueTakes a = true := by
  by_contra hq
  unfold State.accessFault at h
  simp only [hon, hw, Bool.not_eq_true _ ▸ hq, Bool.not_false, Bool.and_self, if_true] at h
  repeat' split at h
  all_goals contradiction

theorem accessQueue_kept {a : HostAccess} (v : Word) (h : s.queueTakes a = true) : Kept s (s.accessQueue a v) := by
  unfold State.queueTakes at h
  unfold State.accessQueue
  split
  · exact .refl s
  · next w hw =>
    rw [hw] at h
    refine Kept.trans (t := s.takeWrite w a.block a.word v) ?_ {}
    unfold State.takeWrite
    split
    · exact {
        outbound := fun h => (dropLast_append_getLast?_length _ _).trans_le h
        fences := fun h => fencesAtHead_merge _ _ h }
    · next hmerge =>
      have hroom : s.outbound.length < Config.outboundCapacity := by
        simpa [State.canTakeWrite, hmerge] using h
      exact {
        outbound := fun _ => List.length_append.trans_le hroom
        fences := fun h => fencesAtHead_append h rfl }

theorem respond_kept (r : BusResponse) : Kept s (s.respond r) := {}

theorem decideAccess_kept {a : HostAccess} (h : s.decideAccess a = .next t) : Kept s t := by
  have hstore (h : s.accessStore a = .next t) : Kept s t := by
    unfold State.accessStore at h
    split at h
    · cases h
    · split at h
      · split at h <;> cases h
        · exact {}
        · exact (writeStore_kept _ _ _).trans (respond_kept _)
      · cases h
  unfold State.decideAccess at h
  split at h
  · cases h
    exact hostFault_kept _ _
  · next hf =>
    split at h
    · exact hstore h
    · next v hw =>
      split at h
      next hon =>
        cases h
        exact accessQueue_kept v (queueTakes_of_accessFault_none hf hon (by simp [HostAccess.isWrite, hw]))
      next => exact hstore h

theorem applyUpdate_kept (peer : Option StationNo) (w : WindowNo) (b first : Nat) (words : List Word) :
    Kept s (s.applyUpdate peer w b first words) := by
  have hwritten : Kept s ((s.writeStore b first words).setWritten w) :=
    (writeStore_kept b first words).trans (setWritten_kept w)
  unfold State.applyUpdate
  dsimp only
  split
  · exact hwritten
  · exact hwritten.trans (event_kept _ _)

/-- The frame claim at the head of the queue is taken from it. -/
theorem tailClaims_kept {c : FrameClaim} {rest : List FrameClaim} (h : s.frameClaims = c :: rest) :
    Kept s { s with frameClaims := rest } where
  claims _ hc x hx := hc x (h ▸ List.mem_cons_of_mem _ hx)

theorem initPass_kept {next : Option Nat} (h : ∀ b, next = some b → b < 8192) : Kept s { s with initPass := next } where
  initPass _ := h

theorem execInitPassStep_kept (h : execInitPassStep s = .next t) : Kept s t := by
  unfold execInitPassStep at h
  split at h
  · cases h
    exact .refl s
  · next b _ =>
    split at h
    · have hzeroed := writeStore_kept (s := s) b 0 (List.replicate 16 0)
      dsimp only at h
      split at h <;> cases h
      next hnext =>
        refine hzeroed.trans (initPass_kept fun x hx => ?_)
        cases hx
        exact hnext
      next =>
        refine hzeroed.trans ?_
        exact (initPass_kept fun x hx => by cases hx).trans (enter_kept _ _ _)
    · cases h

theorem execHostDataAccess_kept {address : BitVec 20} {lanes : Lanes} {access : BusAccess}
    (h : execHostDataAccess address lanes access s = .next t) : Kept s t := by
  unfold execHostDataAccess at h
  dsimp only at h
  split at h
  · cases h
    exact .refl s
  · split at h
    · cases h
      exact {}
    · exact decideAccess_kept h

theorem execHostStoreClaimGranted_kept (h : execHostStoreClaimGranted s = .next t) : Kept s t := by
  unfold execHostStoreClaimGranted at h
  split at h
  · cases h
    exact .refl s
  · split at h
    · refine Kept.trans (t := { s with hostClaim := none }) {} ?_
      unfold State.decideClaim at h
      split at h
      · cases h
        exact hostFault_kept _ _
      · exact decideAccess_kept h
    · cases h
      exact .refl s

theorem execCopyReadGranted_kept (h : execCopyReadGranted s = .next t) : Kept s t := by
  unfold execCopyReadGranted at h
  split at h
  · split at h
    · split at h
      · cases h
        exact releaseCopyRead_kept
      · split at h <;> cases h
        exact offerBlock_kept _ _ _ _ _
    · cases h
      exact .refl s
  · cases h
    exact .refl s

/-! ## Every row but POWER_ON_RESET -/

theorem exec_kept {i : Instr} (hi : i ≠ .powerOnReset) (h : exec i s = .next t) : Kept s t := by
  cases rowKind i with
  | line hl => exact exec_ofLine_kept hl h
  | command hc =>
    cases (hc s).symm.trans h
    exact command_kept _ _ _ _
  | reset => exact absurd rfl hi
  | init => exact execInitPassStep_kept h
  | access => exact execHostDataAccess_kept h
  | claim => exact execHostStoreClaimGranted_kept h
  | region =>
    change execControlRegionWrite _ _ _ s = _ at h
    unfold execControlRegionWrite at h
    dsimp only at h
    split at h
    · cases h
      exact {}
    · split at h <;> cases h
      · exact issue_kept s
      · exact .refl s
  | configured =>
    change execConfigureComplete s = _ at h
    unfold execConfigureComplete at h
    split at h <;> cases h
    · exact .refl s
    · exact configureDone_kept _
  | applied =>
    change execUpdateApplied s = _ at h
    unfold execUpdateApplied at h
    split at h
    next hclaims =>
      split at h <;> cases h
      exact (tailClaims_kept hclaims).trans (applyUpdate_kept _ _ _ _ _)
    next =>
      cases h
      exact .refl s
  | copied =>
    change execCopiedBlockWritten s = _ at h
    unfold execCopiedBlockWritten at h
    split at h
    next hclaims =>
      split at h <;> cases h
      exact (tailClaims_kept hclaims).trans ((writeStore_kept _ _ _).trans (setWritten_kept _))
    next =>
      cases h
      exact .refl s
  | copyRead => exact execCopyReadGranted_kept h

theorem byteTime_kept : Kept s s.byteTime := by
  unfold State.byteTime
  dsimp only
  split <;> exact {}

theorem withPending_kept (l : List Instr) : Kept s { s with pending := l } where

/-! ## The reset state -/

theorem reset_window (w : WindowNo) : State.reset.window w = {} := by
  show (Vector.replicate 32 ({} : WindowRecord))[w] = {}
  simp

theorem powerOnReset_withinLimits (store : Memory) (pending : List Instr) :
    State.WithinLimits { State.reset with store := store, pending := pending } where
  outbound := Nat.zero_le _
  noFenceAtHead := rfl
  control := Nat.zero_le _
  controlFrames _ h := nomatch h
  serving := Nat.zero_le _
  held _ h := nomatch h
  events := Nat.zero_le _
  overflow h := nomatch h
  notices i := (reset_levelFits i).1
  overrun i := (reset_levelFits i).2

theorem powerOnReset_spansInStore (store : Memory) (pending : List Instr) :
    State.SpansInStore { State.reset with store := store, pending := pending } where
  spans w h heq := by
    change (State.reset.window w).holding = some h at heq
    rw [reset_window] at heq
    cases heq
  claims _ h := nomatch h
  initPass b h := by
    cases h
    decide

/-- Settles O56: the reset state is within the limits, and every other row keeps them. -/
theorem everyStepKeepsTheLimits : Obligations.EveryStepKeepsTheLimits := by
  intro s t hs h
  unfold step at h
  split at h
  · cases h
    exact byteTime_kept.withinLimits hs
  · next c rest _ =>
    have hs' : State.WithinLimits { s with pending := rest } := (withPending_kept rest).withinLimits hs
    by_cases hc : c = .powerOnReset
    · subst hc
      cases h
      exact powerOnReset_withinLimits _ _
    · exact (exec_kept hc h).withinLimits hs'

/-! ## No fault is reached -/

theorem storeHas_of_lt {b : Nat} (h : b < 8192) : storeHas b = true := decide_eq_true h

/-- An access that passes its checks addresses a held block. -/
theorem inExtent_of_accessFault_none {a : HostAccess} (h : s.accessFault a = none) :
    (s.addressed a).inExtent a.block = true := by
  by_contra hin
  unfold State.accessFault at h
  simp only [Bool.not_eq_true _ ▸ hin, Bool.not_false, if_true] at h
  repeat' split at h
  all_goals contradiction

theorem accessBlock_of_accessFault_none (hs : spansFit s.windows) {a : HostAccess} (h : s.accessFault a = none) :
    ∃ b, s.accessBlock a = some b ∧ b < 8192 := by
  have hin := inExtent_of_accessFault_none h
  unfold State.accessBlock
  unfold State.addressed at hin ⊢
  split at hin
  · cases hin
  · next w _ =>
    have hblock : ∃ b, (s.window w).storeBlock a.block = some b := by
      have hin' := hin
      unfold WindowRecord.inExtent at hin'
      unfold WindowRecord.storeBlock
      split at hin'
      · cases hin'
      · next hd hhd =>
        exact ⟨_, if_pos hin⟩
    obtain ⟨b, hb⟩ := hblock
    exact ⟨b, hb, storeBlock_lt hs hb⟩

theorem accessStore_next (hs : spansFit s.windows) {a : HostAccess} (h : s.accessFault a = none) :
    ∃ t, s.accessStore a = .next t := by
  obtain ⟨b, hb, hlt⟩ := accessBlock_of_accessFault_none hs h
  unfold State.accessStore
  rw [hb]
  dsimp only
  rw [if_pos (storeHas_of_lt hlt)]
  split <;> exact ⟨_, rfl⟩

theorem decideAccess_next (hs : spansFit s.windows) (a : HostAccess) : ∃ t, s.decideAccess a = .next t := by
  unfold State.decideAccess
  split
  · exact ⟨_, rfl⟩
  · next hf =>
    split
    · exact accessStore_next hs hf
    · split
      · exact ⟨_, rfl⟩
      · exact accessStore_next hs hf

theorem copySource_lt (hs : spansFit s.windows) {pair : StationNo × WindowNo} {r : ServingRecord} {next b : Nat}
    (h : s.copySource pair = some (r, next, b)) : b < 8192 := by
  unfold State.copySource at h
  split at h
  · cases h
  · split at h
    · cases h
    · obtain ⟨b', hb', heq⟩ := Option.map_eq_some_iff.1 h
      cases heq
      exact storeBlock_lt hs hb'

/-- With every span and claim in the store, no row stops with a fault. -/
theorem exec_next (hs : s.SpansInStore) (i : Instr) : ∃ t, exec i s = .next t := by
  cases rowKind i with
  | line hl =>
    obtain ⟨t, ht, _⟩ := exec_ofLine hl s
    exact ⟨t, ht⟩
  | command hc => exact ⟨_, hc s⟩
  | reset => exact ⟨_, rfl⟩
  | init =>
    show ∃ t, execInitPassStep s = .next t
    unfold execInitPassStep
    split
    · exact ⟨_, rfl⟩
    · next b hb =>
      rw [if_pos (storeHas_of_lt (hs.initPass b hb))]
      dsimp only
      split <;> exact ⟨_, rfl⟩
  | access =>
    show ∃ t, execHostDataAccess _ _ _ s = .next t
    unfold execHostDataAccess
    dsimp only
    split
    · exact ⟨_, rfl⟩
    · split
      · exact ⟨_, rfl⟩
      · exact decideAccess_next hs.spans _
  | claim =>
    show ∃ t, execHostStoreClaimGranted s = .next t
    unfold execHostStoreClaimGranted
    split
    · exact ⟨_, rfl⟩
    · split
      · unfold State.decideClaim
        split
        · exact ⟨_, rfl⟩
        · exact decideAccess_next (s := { s with hostClaim := none }) hs.spans _
      · exact ⟨_, rfl⟩
  | region =>
    show ∃ t, execControlRegionWrite _ _ _ s = .next t
    unfold execControlRegionWrite
    dsimp only
    split
    · exact ⟨_, rfl⟩
    · split <;> exact ⟨_, rfl⟩
  | configured =>
    show ∃ t, execConfigureComplete s = .next t
    unfold execConfigureComplete
    split <;> exact ⟨_, rfl⟩
  | applied =>
    show ∃ t, execUpdateApplied s = .next t
    unfold execUpdateApplied
    split
    next hclaims =>
      have hin : claimInStore _ := claimInStore_of_spansInStore hs _ (hclaims ▸ List.mem_cons_self)
      rw [if_pos (storeHas_of_lt hin)]
      exact ⟨_, rfl⟩
    next => exact ⟨_, rfl⟩
  | copied =>
    show ∃ t, execCopiedBlockWritten s = .next t
    unfold execCopiedBlockWritten
    split
    next hclaims =>
      have hin : claimInStore _ := claimInStore_of_spansInStore hs _ (hclaims ▸ List.mem_cons_self)
      rw [if_pos (storeHas_of_lt hin)]
      exact ⟨_, rfl⟩
    next => exact ⟨_, rfl⟩
  | copyRead =>
    show ∃ t, execCopyReadGranted s = .next t
    unfold execCopyReadGranted
    split
    · split
      · split
        · exact ⟨_, rfl⟩
        · next hsource =>
          rw [if_pos (storeHas_of_lt (copySource_lt hs.spans hsource))]
          exact ⟨_, rfl⟩
      · exact ⟨_, rfl⟩
    · exact ⟨_, rfl⟩

/-- Settles O58: a store block that a row names comes from a span, a claim or the init pass, and all of them lie in the store. -/
theorem everyStepStaysInTheStore : Obligations.EveryStepStaysInTheStore := by
  intro s hs
  unfold step
  split
  · exact ⟨_, rfl, byteTime_kept.spansInStore hs⟩
  · next c rest _ =>
    have hs' : State.SpansInStore { s with pending := rest } := (withPending_kept rest).spansInStore hs
    obtain ⟨t, ht⟩ := exec_next hs' c
    refine ⟨t, ht, ?_⟩
    by_cases hc : c = .powerOnReset
    · subst hc
      cases ht
      exact powerOnReset_spansInStore _ _
    · exact (exec_kept hc ht).spansInStore hs'

end Sys2Proof.Proofs

/-! The step, the byte time and the resets: what a step on an empty queue does by the mode of the clock, with the happenings
of the round as the rows that wait (R60 to R62, R64), and the reset state, which meets every invariant (R81, R82). -/

namespace Sys2Proof.Proofs

-- One proof at a time: every further thread of the elaborator counts against the memory limit.
set_option Elab.async false

open Sys2Proof Sys2Proof.Machine Sys2Proof.Laws

variable {s : State} {p : Profile}

/-- Settles O1: by the definition of a step. -/
theorem stepTakesTheFrontCommand : Obligations.StepTakesTheFrontCommand := fun _ _ _ => rfl

/-! ## A byte time -/

theorem step_empty (h : s.pending = []) : step s = .next s.byteTime := by
  unfold step
  rw [h]

theorem countDown_eq (timer : Option Nat) : countDown timer = timer.map fun left => left - 1 := by
  cases timer <;> rfl

theorem countDown_eq_zero {timer : Option Nat} : countDown timer = some 0 ↔ timer = some 0 ∨ timer = some 1 := by
  cases timer with
  | none => simp [countDown]
  | some n =>
    simp only [countDown, Option.some.injEq]
    omega

/-- The expiries that wait are those of the timers that have come to 0 (R64). -/
theorem timerCommands_of_countDown {t : State} (hq : t.clock.quiet = countDown s.clock.quiet)
    (hj : t.clock.join = countDown s.clock.join) (hs : t.clock.standoff = countDown s.clock.standoff) :
    t.timerCommands =
      (if s.clock.quiet = some 0 ∨ s.clock.quiet = some 1 then [.quietTimerExpiry] else []) ++
      (if s.clock.join = some 0 ∨ s.clock.join = some 1 then [.joinTimerExpiry] else []) ++
      (if s.clock.standoff = some 0 ∨ s.clock.standoff = some 1 then [.standoffTimerExpiry] else []) := by
  simp only [State.timerCommands, hq, hj, hs, countDown_eq_zero]

theorem commandsOf_ite (s : State) (c : Prop) [Decidable c] (x : Happening) :
    ((if c then [x] else []).map s.commandsOf).flatten = if c then s.commandsOf x else [] := by
  split
  · exact List.append_nil _
  · rfl

theorem commandsOf_slotHappenings (s : State) (p : Profile) (n k : Nat) :
    ((p.slotHappenings n k).map s.commandsOf).flatten =
      (if n = p.settle + k * p.slotLength + p.slotLength then [.slotEnd k] else []) ++
      (if n = p.settle + k * p.slotLength then [.slotStart k] else []) ++
      (if n = p.settle + k * p.slotLength + 20 + p.grace then [.openGraceExpiry k] else []) := by
  rw [Profile.slotHappenings, List.map_append, List.map_append, List.flatten_append, List.flatten_append, commandsOf_ite,
    commandsOf_ite, commandsOf_ite]
  rfl

/-- The happenings of an instant wait as the rows of R62's table. -/
theorem commandsOf_happenings (s : State) (p : Profile) (n : Nat) :
    ((p.happenings n).map s.commandsOf).flatten = p.rowsAt n ++
      (if n = p.round then
        [.roundEnd, .misalignedRoundTest, .syncLoss, .rosterSilenceCheck] ++
          (s.roster.map fun r => .peerSilent r.station) ++
          [.coldMarkReduction, .waitTimerExpiry, .stallTimerExpiry, .offerLapse]
      else []) := by
  have hslots : ∀ l : List Nat, ((l.map (p.slotHappenings n)).flatten.map s.commandsOf).flatten =
      (l.map fun k => ((p.slotHappenings n k).map s.commandsOf).flatten).flatten := by
    intro l
    induction l with
    | nil => rfl
    | cons k l ih => rw [List.map_cons, List.flatten_cons, List.map_append, List.flatten_append, ih]; rfl
  rw [Profile.happenings, List.map_append, List.flatten_append, hslots, commandsOf_ite]
  simp only [commandsOf_slotHappenings]
  rfl

/-- Settles O2, by the mode of the clock. -/
theorem emptyQueueIsOneByteTime : Obligations.EmptyQueueIsOneByteTime := by
  intro s p hempty hp
  rw [step_empty hempty]
  unfold State.byteTime
  dsimp only
  refine ⟨fun hm => ?_, fun hm => ?_, fun n hm hn => ?_⟩
  · rw [if_pos hm, hm]
    rfl
  · have hrunning : s.running = false := decide_eq_false (by rw [hm]; decide)
    rw [if_neg (by rw [hm]; decide), timerCommands_of_countDown (s := s) (by rw [hm]; rfl) (by rw [hm]; rfl)
      (by rw [hm]; rfl)]
    have hround : State.roundCommands { s with
        clock := s.clock.tick s.station.clockMode
        filler := s.filler.map fun f => { f with count := f.count + 1 } } = [] := by
      unfold State.roundCommands
      split
      · exact if_neg fun h => Bool.false_ne_true (hrunning.symm.trans h)
      · rfl
    rw [hround, hm]
    simp only [Clock.tick, countDown_eq, List.nil_append]
  · have hrunning : s.running = true := decide_eq_true hm
    have hticked : (s.clock.tick .running).position = some (n + 1) := by rw [Clock.tick, hn]; rfl
    have hround : State.roundCommands { s with
        clock := s.clock.tick s.station.clockMode
        filler := s.filler.map fun f => { f with count := f.count + 1 } } =
        ((p.happenings (n + 1)).map s.commandsOf).flatten := by
      simp only [State.roundCommands, hp, hm, hticked]
      exact if_pos hrunning
    rw [if_neg (by rw [hm]; decide), timerCommands_of_countDown (s := s) (by rw [hm]; rfl) (by rw [hm]; rfl)
      (by rw [hm]; rfl), hround, commandsOf_happenings, hm]
    simp only [Clock.tick, countDown_eq, hn, Option.map_some]

/-! ## The resets -/

theorem reset_queue : ∀ i : Fin 7, State.reset.notices.queue i = {} := by decide

/-- Settles O3: the reset state's fields, one by one. -/
theorem powerOnResetGivesTheResetState : Obligations.PowerOnResetGivesTheResetState :=
  ⟨fun _ => rfl, rfl, rfl, rfl, reset_window, rfl, rfl, rfl, rfl, rfl, rfl, rfl, rfl, rfl, rfl, rfl, rfl, rfl, reset_queue,
    rfl, rfl, rfl, rfl, rfl, rfl⟩

theorem windowsAgree_of_empty (hw : ∀ w, s.window w = {}) (hr : s.resync = []) (hc : s.catchUp = none)
    (ha : s.station ≠ .active) : s.WindowsAgree where
  held w := by simp [hw w]
  catchingUp w := by simp [hw w, hc]
  listed h := (ha h).elim
  listedOnce := hr ▸ List.nodup_nil
  offLine _ w := .inl (by rw [hw w])
  attempts w := by rw [hw w]
  marks w n hn := by
    rw [hw w] at hn
    cases hn

/-- A state as the resets leave it is sound: INITIALISING with the init pass under way, or UNCONFIGURED without. -/
theorem reset_sound {station : StationState} {initPass : Option Nat} (store region : Memory) (completion : Completion)
    (hostClaim : Option HostClaim) (busResponse : Option BusResponse) (pending : List Instr)
    (h : (station = .initialising ∧ initPass ≠ none) ∨ (station = .unconfigured ∧ initPass = none)) :
    State.Sound { State.reset with
      station := station, initPass := initPass, store := store, region := region, completion := completion
      hostClaim := hostClaim, busResponse := busResponse, pending := pending } := by
  have hquiet : station.onLine = false ∧ station.clockMode = .stopped ∧ station.takesPart = false := by
    rcases h with ⟨h, -⟩ | ⟨h, -⟩ <;> rw [h] <;> exact ⟨rfl, rfl, rfl⟩
  obtain ⟨hline, hmode, hpart⟩ := hquiet
  have hstation : station ≠ .active ∧ station ≠ .listening ∧ station ≠ .standoff := by
    rcases h with ⟨h, -⟩ | ⟨h, -⟩ <;> rw [h] <;> decide
  obtain ⟨hactive, hlistening, hstandoff⟩ := hstation
  exact {
    clock := {
      position := ⟨fun h => (Bool.false_ne_true h).elim, fun h => by rw [hmode] at h; cases h⟩
      quiet := ⟨fun h => (Bool.false_ne_true h).elim, fun h => (hlistening h).elim⟩
      join := ⟨fun h => (Bool.false_ne_true h).elim, fun h => (hlistening h).elim⟩
      standoff := ⟨fun h => (Bool.false_ne_true h).elim, fun h => (hstandoff h).elim⟩
      receiver := ⟨fun _ => hline, fun _ => rfl⟩ }
    quiet := {
      outbound := fun _ => rfl, control := fun _ => rfl, account := fun _ => rfl, resync := fun _ => rfl
      catchUp := fun _ => rfl, serving := fun _ => rfl, turn := fun _ => rfl, roster := fun _ => rfl }
    profile := {
      initPass := by
        rcases h with ⟨h, hpass⟩ | ⟨h, hpass⟩
        · exact ⟨fun _ => h, fun _ => hpass⟩
        · exact ⟨fun hne => (hne hpass).elim, fun hi => by rw [show station = _ from hi] at h; cases h⟩
      installed := ⟨fun _ => h.imp And.left And.left, fun _ => rfl⟩
      limit := fun _ h => nomatch h
      inFlight := fun h => (h rfl).elim }
    windows := windowsAgree_of_empty reset_window rfl rfl hactive
    serving := ⟨List.nodup_nil, (fun _ h => nomatch h), fun _ h => nomatch h⟩
    settled := if_neg fun h => hactive h.1 }

/-- Settles O59: the reset state is one of those that the resets leave. -/
theorem resetMeetsEveryInvariant : Obligations.ResetMeetsEveryInvariant :=
  ⟨⟨reset_wf.1, reset_wf.2, fun _ h => nomatch h⟩, powerOnReset_withinLimits _ _,
    reset_sound _ _ _ _ _ _ (.inl ⟨rfl, fun h => nomatch h⟩), powerOnReset_spansInStore _ _⟩

end Sys2Proof.Proofs

/-! The control region and the issue of a command (R164, R165): the bytes that a write changes, the gate, what a completion
leaves in the two records, and the commands on the station's state (R82, R84, R95). -/

namespace Sys2Proof.Proofs

-- One proof at a time: every further thread of the elaborator counts against the memory limit.
set_option Elab.async false

open Sys2Proof Sys2Proof.Machine Sys2Proof.Laws

variable {s u : State} {p : Profile} {i : Instr} {code : Nat} {operands : List Word} {tag : Word}

/-! ## Bytes of the region -/

/-- A write that is made on a condition is read where it was made. -/
theorem read_writeIf {m : Memory} (c : Prop) [Decidable c] (a : Nat) (v : Byte) (b : Nat) (h : m.wf = true) :
    (if c then m.write a v else m).read b = if c ∧ b = a then v else m.read b := by
  by_cases hc : c
  · rw [if_pos hc, read_write a v b h]
    simp only [hc, true_and]
  · rw [if_neg hc, if_neg fun h => hc h.1]

theorem wf_writeIf {m : Memory} (c : Prop) [Decidable c] (a : Nat) (v : Byte) (h : m.wf = true) :
    (if c then m.write a v else m).wf = true := by
  split
  · exact wf_write a v h
  · exact h

/-- A write of enabled lanes is read back in those bytes alone (R164). -/
theorem read_writeLanes {m : Memory} (a : Nat) (lanes : Lanes) (v : Word) (b : Nat) (h : m.wf = true) :
    (m.writeLanes a lanes v).read b =
      if a ≤ b ∧ b < a + 4 ∧ laneEnabled lanes (b - a) = true then wordByte v (b - a) else m.read b := by
  have h0 := wf_writeIf (laneEnabled lanes 0 = true) (a + 0) (wordByte v 0) h
  have h1 := wf_writeIf (laneEnabled lanes 1 = true) (a + 1) (wordByte v 1) h0
  have h2 := wf_writeIf (laneEnabled lanes 2 = true) (a + 2) (wordByte v 2) h1
  rw [Memory.writeLanes, List.foldl_cons, List.foldl_cons, List.foldl_cons, List.foldl_cons, List.foldl_nil,
    read_writeIf _ _ _ _ h2, read_writeIf _ _ _ _ h1, read_writeIf _ _ _ _ h0, read_writeIf _ _ _ _ h]
  by_cases hin : a ≤ b ∧ b < a + 4
  · obtain ⟨k, rfl⟩ := Nat.exists_eq_add_of_le hin.1
    have hk : k < 4 := by omega
    interval_cases k <;> simp
  · have hout : ∀ k, k < 4 → b ≠ a + k := fun k hk heq => hin (by omega)
    rw [if_neg fun h => hout 3 (by decide) h.2, if_neg fun h => hout 2 (by decide) h.2,
      if_neg fun h => hout 1 (by decide) h.2, if_neg fun h => hout 0 (by decide) h.2,
      if_neg fun h => hin ⟨h.1, h.2.1⟩]

/-- Settles O11: the lanes of a write below the issue word, and the offsets above it. -/
theorem controlRegionWriteChangesEnabledLanes : Obligations.ControlRegionWriteChangesEnabledLanes := by
  intro s word lanes v hwf
  refine ⟨fun hlow => ⟨_, if_pos hlow, fun i hi => ?_, fun a ha => ?_, rfl⟩, fun hhigh => ?_⟩
  · refine (read_writeLanes _ lanes v _ hwf).trans ?_
    rw [Nat.add_sub_cancel_left]
    exact if_congr ⟨fun h => h.2.2, fun h => ⟨Nat.le_add_right _ _, Nat.add_lt_add_left hi _, h⟩⟩ rfl rfl
  · exact (read_writeLanes _ lanes v a hwf).trans (if_neg fun h => by omega)
  · exact (if_neg hhigh.le.not_gt).trans (if_neg hhigh.ne')

/-! ## The gate -/

theorem commandRow_bounds (h : commandRow i = some (code, operands, tag)) : code ≤ 16 ∧ operands.length ≤ 6 := by
  cases i with
  | configure | join | leave | resetStation | declare | resync | watch | clearWritten | sendNotice | takeNotice
  | setThreshold | fence | takeEvent | windowStatus | rosterStatus | stationStatus =>
    cases h
    exact ⟨by decide, by simp⟩
  | _ => cases h

theorem commandRow_four (h : commandRow i = some (4, operands, tag)) : i = .resetStation tag := by
  cases i with
  | resetStation =>
    cases h
    rfl
  | _ => cases h

theorem fillCommand_code_toNat (hwf : s.region.wf = true) (hc : code ≤ 16) :
    (s.fillCommand code operands tag).commandCode.toNat = code := by
  rw [fillCommand_commandCode code operands tag hwf, BitVec.toNat_ofNat, Nat.mod_eq_of_lt (by omega)]

/-- The gate stops every command in INITIALISING, and every one but RESET_STATION while a CONFIGURE is in flight (R165). -/
theorem gated_iff (s : State) (code : Nat) :
    s.gated code = true ↔ s.station = .initialising ∨ (s.inFlight ≠ none ∧ code ≠ 4) := by
  simp [State.gated, Option.isSome_iff_ne_none]

theorem exec_gated (hrow : commandRow i = some (code, operands, tag)) (hwf : s.region.wf = true)
    (h : s.station = .initialising ∨ (s.inFlight ≠ none ∧ code ≠ 4)) :
    exec i s = .next ((s.fillCommand code operands tag).complete .busy) := by
  rw [exec_commandRow hrow]
  exact congrArg _ (if_pos ((gated_iff _ _).2 (by rwa [fillCommand_code_toNat hwf (commandRow_bounds hrow).1])))

/-- Past the gate, the command of the code runs on the state with its command record filled in (R165). -/
theorem exec_pastGate {run : State → State} (hrow : commandRow i = some (code, operands, tag))
    (hrun : ∀ u : State, u.runCommand code = run u) (hwf : s.region.wf = true) (hstation : s.station ≠ .initialising)
    (hflight : s.inFlight = none ∨ code = 4) :
    ∃ region, region = (s.fillCommand code operands tag).region ∧
      exec i s = .next (run { s with region := region }) ∧
      ∀ k x, operands[k]? = some x → State.operand { s with region := region } k = x := by
  have hgate : ¬ State.gated (s.fillCommand code operands tag) code = true := by
    rw [gated_iff]
    rintro (h | ⟨h, h4⟩)
    · exact hstation h
    · exact hflight.elim h h4
  refine ⟨_, rfl, ?_, fun k x hx => ?_⟩
  · rw [exec_commandRow hrow, State.command, State.issue, fillCommand_code_toNat hwf (commandRow_bounds hrow).1,
      if_neg hgate, hrun]
    rfl
  · obtain ⟨hk, -⟩ := List.getElem?_eq_some_iff.1 hx
    refine (fillCommand_operand code operands tag k hwf (commandRow_bounds hrow).2 hk).trans ?_
    rw [List.getD_eq_getElem?_getD, hx]
    rfl

/-! ## The commands by their codes -/

theorem runCommand_configure (s : State) : s.runCommand 1 = s.takeConfigure := rfl

theorem runCommand_join (s : State) : s.runCommand 2 = s.takeJoin := rfl

theorem runCommand_leave (s : State) : s.runCommand 3 = s.takeLeave := rfl

theorem runCommand_reset (s : State) : s.runCommand 4 = s.takeReset := rfl

theorem runCommand_declare (s : State) : s.runCommand 5 = s.takeDeclare := rfl

theorem runCommand_resync (s : State) : s.runCommand 6 = s.takeResync := rfl

theorem runCommand_watch (s : State) : s.runCommand 7 = s.takeWatch := rfl

theorem runCommand_clearWritten (s : State) : s.runCommand 8 = s.takeClearWritten := rfl

theorem runCommand_sendNotice (s : State) : s.runCommand 9 = s.takeSendNotice := rfl

theorem runCommand_takeNotice (s : State) : s.runCommand 10 = s.takeTakeNotice := rfl

theorem runCommand_setThreshold (s : State) : s.runCommand 11 = s.takeSetThreshold := rfl

theorem runCommand_fence (s : State) : s.runCommand 12 = s.takeFence := rfl

theorem runCommand_takeEvent (s : State) : s.runCommand 13 = s.takeTakeEvent := rfl

theorem runCommand_windowStatus (s : State) : s.runCommand 14 = s.takeWindowStatus := rfl

theorem runCommand_rosterStatus (s : State) : s.runCommand 15 = s.takeRosterStatus := rfl

theorem runCommand_stationStatus (s : State) : s.runCommand 16 = s.takeStationStatus := rfl

/-! ## The two records -/

theorem completionCode_of_lt {code : Word} (h : code.toNat < 256) : completionCode code = code.setWidth 8 := if_pos h

theorem completionCode_ofNat (h : code ≤ 16) : completionCode (BitVec.ofNat 32 code) = BitVec.ofNat 8 code := by
  have hlt : (BitVec.ofNat 32 code).toNat < 256 := by
    rw [BitVec.toNat_ofNat, Nat.mod_eq_of_lt (by omega)]
    omega
  rw [completionCode_of_lt hlt]
  apply BitVec.eq_of_toNat_eq
  simp

/-- A state whose command record a row has filled in, and which completes, has answered the row (R165). -/
theorem completes_of (hrow : commandRow i = some (code, operands, tag)) (hwf : s.region.wf = true)
    {status : CompletionStatus} {bytes : List Byte} (hexec : exec i s = .next (u.completeBytes status bytes))
    (hregion : u.region = (s.fillCommand code operands tag).region) (hcount : u.completion = s.completion) :
    Completes i s (u.completeBytes status bytes) status bytes := by
  have hcode : u.commandCode = BitVec.ofNat 32 code :=
    (congrArg (Memory.readWord · commandCodeAt) hregion).trans (fillCommand_commandCode code operands tag hwf)
  have htag : u.commandTag = tag :=
    (congrArg (Memory.readWord · commandTagAt) hregion).trans (fillCommand_commandTag code operands tag hwf)
  refine ⟨hexec, ?_⟩
  rw [hrow]
  refine ⟨hregion, ?_⟩
  rw [State.completeBytes, State.completeAs, hcode, htag, completionCode_ofNat (commandRow_bounds hrow).1, hcount]

/-- A row that completes on the state with the command record filled in changes nothing but the two records. -/
theorem onlyCompletes_of (hrow : commandRow i = some (code, operands, tag)) (hwf : s.region.wf = true)
    {status : CompletionStatus} {bytes : List Byte} {region : Memory}
    (hregion : region = (s.fillCommand code operands tag).region)
    (hexec : exec i s = .next (State.completeBytes { s with region := region } status bytes)) :
    OnlyCompletes i s status bytes :=
  ⟨_, completes_of hrow hwf hexec hregion rfl, rfl⟩

theorem runCommand_unlisted (h : code = 0 ∨ 16 < code) : s.runCommand code = s.complete .badOperand := by
  unfold State.runCommand
  split
  case h_17 => rfl
  all_goals omega

/-- A code outside 1 to 16 is BUSY at the gate and BAD_OPERAND past it (R165). -/
theorem issue_unlisted (h : s.commandCode.toNat = 0 ∨ 16 < s.commandCode.toNat) :
    s.issue = s.complete (if s.station = .initialising ∨ s.inFlight ≠ none then .busy else .badOperand) := by
  have hgate : s.gated s.commandCode.toNat = true ↔ s.station = .initialising ∨ s.inFlight ≠ none := by
    rw [gated_iff, and_iff_left (by omega)]
  unfold State.issue
  by_cases hg : s.station = .initialising ∨ s.inFlight ≠ none
  · rw [if_pos (hgate.2 hg), if_pos hg]
  · rw [if_neg (mt hgate.1 hg), if_neg hg, runCommand_unlisted h]

theorem resultWords_nil : resultWords [] = Vector.replicate 16 0 := by decide

/-- Settles O13: the gate for the sixteen rows, and the two ways to a code outside 1 to 16. -/
theorem gateAndCodeRefuseCommands : Obligations.GateAndCodeRefuseCommands := by
  refine ⟨fun i s hne hwf hgate => ?_, fun code tag s hcode hwf => ?_, fun s lanes v hcode => ?_⟩
  · obtain ⟨⟨code, operands, tag⟩, hrow⟩ := Option.ne_none_iff_exists'.1 hne
    refine onlyCompletes_of hrow hwf rfl (exec_gated hrow hwf (hgate.imp_right fun ⟨hf, hreset⟩ => ⟨hf, fun h4 => ?_⟩))
    subst h4
    exact hreset tag (commandRow_four hrow)
  · have hfilled : (s.fillCommand code.toNat [] tag).commandCode = code := by
      rw [fillCommand_commandCode _ _ _ hwf, BitVec.ofNat_toNat, BitVec.setWidth_eq]
    have hissue := issue_unlisted (s := s.fillCommand code.toNat [] tag) (by rwa [hfilled])
    refine ⟨_, congrArg Host.Outcome.next hissue, rfl, rfl, fun hlt => ?_, fillCommand_commandTag _ _ _ hwf, rfl, resultWords_nil, rfl⟩
    exact (congrArg completionCode hfilled).trans (completionCode_of_lt hlt)
  · exact ⟨_, congrArg Host.Outcome.next (issue_unlisted hcode), rfl, completionCode_of_lt, rfl, rfl, resultWords_nil, rfl⟩

/-! ## The command record that holds its command already -/

theorem wordByte_wordOf (b0 b1 b2 b3 : Byte) : ∀ k, k < 4 → wordByte (wordOf b0 b1 b2 b3) k = [b0, b1, b2, b3].getD k 0 := by
  intro k hk
  apply BitVec.eq_of_getLsbD_eq
  intro j hj
  interval_cases k <;>
    simp only [wordOf, wordByte, BitVec.getLsbD_append, BitVec.getLsbD_setWidth, BitVec.getLsbD_ushiftRight] <;>
    interval_cases j <;> simp

/-- A word written over itself changes nothing. -/
theorem writeWord_self {m : Memory} {a : Nat} {w : Word} (h : m.wf = true) (hr : m.readWord a = w) : m.writeWord a w = m := by
  refine wf_ext (wf_writeWord a w h) h fun b => ?_
  rw [read_writeWord a w b h]
  split
  next hin =>
    obtain ⟨k, rfl⟩ := Nat.exists_eq_add_of_le hin.1
    have hk : k < 4 := by omega
    rw [Nat.add_sub_cancel_left, ← hr, Memory.readWord, wordByte_wordOf _ _ _ _ k hk]
    interval_cases k <;> rfl
  next => rfl

theorem writeWords_self {m : Memory} (h : m.wf = true) : ∀ {ws : List Word} {a : Nat},
    (∀ k w, ws[k]? = some w → m.readWord (a + 4 * k) = w) → m.writeWords a ws = m
  | [], _, _ => rfl
  | w :: ws, a, hr => by
    rw [Memory.writeWords, writeWord_self h (by exact hr 0 w rfl)]
    refine writeWords_self h fun k x hx => ?_
    rw [← hr (k + 1) x hx]
    congr 1
    omega

/-- Settles O12: filling in what the command record holds already leaves the region as it is. -/
theorem issueWordRunsTheRecordedCommand : Obligations.IssueWordRunsTheRecordedCommand := by
  intro i code operands tag s lanes v hrow hwf hcode htag hoperands
  have hfilled : s.fillCommand code operands tag = s := by
    rw [State.fillCommand, writeWord_self hwf hcode, writeWords_self hwf hoperands, writeWord_self hwf htag]
  rw [exec_commandRow hrow, State.command, hfilled]
  rfl

/-! ## RESET_STATION, JOIN, LEAVE -/

/-- Settles O4: RESET_STATION passes the gate whatever is in flight. -/
theorem resetStationGivesTheResetValues : Obligations.ResetStationGivesTheResetValues := by
  intro s tag hwf hstation
  obtain ⟨region, hregion, hexec, -⟩ :=
    exec_pastGate (i := .resetStation tag) rfl runCommand_reset hwf hstation (.inr rfl)
  have hcompletes := completes_of (u := State.resetStation { s with region := region }) rfl hwf hexec hregion rfl
  exact ⟨_, hexec, hcompletes.2, rfl⟩

theorem takeJoin_configured (h : s.station = .configured) (hp : s.profile = some p) :
    s.takeJoin = (s.enterListening p).complete .done := by
  unfold State.takeJoin
  rw [h, hp]

theorem takeJoin_done (h : s.station = .listening ∨ s.station = .coldStart ∨ s.station = .active ∨ s.station = .standoff) :
    s.takeJoin = s.complete .done := by
  unfold State.takeJoin
  rcases h with h | h | h | h <;> rw [h]

theorem takeJoin_badState (h : s.station = .unconfigured ∨ s.station = .leaving ∨ s.station = .muted) :
    s.takeJoin = s.complete .badState := by
  unfold State.takeJoin
  rcases h with h | h | h <;> rw [h]

/-- A change of station state reports itself (R79). -/
theorem enter_reports (s : State) (next : StationState) (cause : StationCause) (count : Nat) :
    Reports s (s.enter next cause count) [⟨s.ownSubject, s.clock.round, .stationState s.station next cause count⟩] :=
  (event_reports { s with station := next } _ _).from_eq rfl rfl

/-- Settles O16, by the station state. -/
theorem joinActsByState : Obligations.JoinActsByState := by
  intro s tag hwf hstation hflight
  obtain ⟨region, hregion, hexec, -⟩ := exec_pastGate (i := .join tag) rfl runCommand_join hwf hstation (.inl hflight)
  refine ⟨fun p hconf hp => ?_, fun h => ?_, fun h => ?_⟩
  · rw [takeJoin_configured (s := { s with region := region }) hconf hp] at hexec
    refine ⟨_, completes_of rfl hwf hexec hregion rfl, ?_, rfl⟩
    rw [← hconf]
    exact ((enter_reports { s with region := region } _ _ _).of_eq rfl rfl).from_eq rfl rfl
  · rw [takeJoin_done (s := { s with region := region }) h] at hexec
    exact onlyCompletes_of rfl hwf hregion hexec
  · rw [takeJoin_badState (s := { s with region := region }) h] at hexec
    exact onlyCompletes_of rfl hwf hregion hexec

theorem takeLeave_atOnce (h : s.station = .listening ∨ s.station = .standoff ∨ s.station = .muted) :
    s.takeLeave = s.leaveAtOnce.complete .done := by
  unfold State.takeLeave
  rcases h with h | h | h <;> rw [h]

theorem takeLeave_coldStart (h : s.station = .coldStart) :
    s.takeLeave = ({ s with leavePending := true } : State).complete .done := by
  unfold State.takeLeave
  rw [h]

theorem takeLeave_leaving (h : s.station = .leaving) : s.takeLeave = s.complete .done := by
  unfold State.takeLeave
  rw [h]

theorem takeLeave_badState (h : s.station = .unconfigured ∨ s.station = .configured) : s.takeLeave = s.complete .badState := by
  unfold State.takeLeave
  rcases h with h | h <;> rw [h]

/-- Settles O18, by the station state. -/
theorem leaveElsewhereActsByState : Obligations.LeaveElsewhereActsByState := by
  intro s tag hwf hflight
  have hpast (hstation : s.station ≠ .initialising) :=
    exec_pastGate (i := .leave tag) rfl runCommand_leave hwf hstation (.inl hflight)
  refine ⟨fun h => ?_, fun h => ?_, fun h => ?_, fun h => ?_⟩
  · obtain ⟨region, hregion, hexec, -⟩ := hpast (by rcases h with h | h | h <;> rw [h] <;> decide)
    rw [takeLeave_atOnce (s := { s with region := region }) h] at hexec
    refine ⟨_, completes_of rfl hwf hexec hregion rfl, ?_, rfl⟩
    exact ((enter_reports { s with region := region } _ _ _).of_eq rfl rfl).from_eq rfl rfl
  · obtain ⟨region, hregion, hexec, -⟩ := hpast (by rw [h]; decide)
    rw [takeLeave_coldStart (s := { s with region := region }) h] at hexec
    exact ⟨_, completes_of rfl hwf hexec hregion rfl, rfl⟩
  · obtain ⟨region, hregion, hexec, -⟩ := hpast (by rw [h]; decide)
    rw [takeLeave_leaving (s := { s with region := region }) h] at hexec
    exact onlyCompletes_of rfl hwf hregion hexec
  · obtain ⟨region, hregion, hexec, -⟩ := hpast (by rcases h with h | h <;> rw [h] <;> decide)
    rw [takeLeave_badState (s := { s with region := region }) h] at hexec
    exact onlyCompletes_of rfl hwf hregion hexec

end Sys2Proof.Proofs

/-! The commands on a window's flags (R6, R7), on the two queues that the host fills (R100, R101) and on the two that it
empties (R161 to R163, R169, R170). -/

namespace Sys2Proof.Proofs

-- One proof at a time: every further thread of the elaborator counts against the memory limit.
set_option Elab.async false

open Sys2Proof Sys2Proof.Machine Sys2Proof.Laws

variable {s : State} {w : WindowNo} {x : Word}

/-! ## Window operands -/

theorem windowOperand_of_val (h : x.toNat = w.val) : windowOperand x = some w := by
  have hlt : x.toNat < 32 := h ▸ w.isLt
  rw [windowOperand, dif_pos hlt]
  exact congrArg some (Fin.ext h)

theorem windowOperand_of_le (h : 32 ≤ x.toNat) : windowOperand x = none := dif_neg h.not_gt

theorem isHeld_iff {r : WindowRecord} : r.isHeld = true ↔ r.holding ≠ none := Option.isSome_iff_ne_none

/-! ## WATCH and CLEAR_WRITTEN -/

theorem takeWatch_unconfigured (h : s.station = .unconfigured) : s.takeWatch = s.complete .badState := if_pos h

theorem takeWatch_noWindow (h : s.station ≠ .unconfigured) (hw : windowOperand (s.operand 0) = none) :
    s.takeWatch = s.complete .badOperand := by
  rw [State.takeWatch, if_neg h, hw]

theorem takeWatch_refused (h : s.station ≠ .unconfigured) (hw : windowOperand (s.operand 0) = some w)
    (hno : (s.window w).holding = none ∨ 1 < (s.operand 1).toNat) : s.takeWatch = s.complete .badOperand := by
  rw [State.takeWatch, if_neg h, hw]
  exact if_neg fun hok => hno.elim (isHeld_iff.1 hok.1) hok.2.not_gt

theorem takeWatch_set (h : s.station ≠ .unconfigured) (hw : windowOperand (s.operand 0) = some w)
    (hheld : (s.window w).holding ≠ none) (hset : (s.operand 1).toNat ≤ 1) :
    s.takeWatch = (s.setWindow w { s.window w with watch := decide ((s.operand 1).toNat = 1) }).complete .done := by
  rw [State.takeWatch, if_neg h, hw]
  exact if_pos ⟨isHeld_iff.2 hheld, hset⟩

theorem takeClearWritten_unconfigured (h : s.station = .unconfigured) : s.takeClearWritten = s.complete .badState := if_pos h

theorem takeClearWritten_noWindow (h : s.station ≠ .unconfigured) (hw : windowOperand (s.operand 0) = none) :
    s.takeClearWritten = s.complete .badOperand := by
  rw [State.takeClearWritten, if_neg h, hw]

theorem takeClearWritten_clears (h : s.station ≠ .unconfigured) (hw : windowOperand (s.operand 0) = some w) :
    s.takeClearWritten = (s.setWindow w { s.window w with written := false }).complete .done := by
  rw [State.takeClearWritten, if_neg h, hw]

/-- Settles O21: WATCH and CLEAR_WRITTEN by the station state and their operands. -/
theorem watchAndClearWrittenSetTheFlags : Obligations.WatchAndClearWrittenSetTheFlags := by
  intro s window setting tag hwf hstation hflight
  obtain ⟨m, hm, hwatch, hops⟩ :=
    exec_pastGate (i := .watch window setting tag) rfl runCommand_watch hwf hstation (.inl hflight)
  obtain ⟨n, hn, hclear, hopc⟩ :=
    exec_pastGate (i := .clearWritten window tag) rfl runCommand_clearWritten hwf hstation (.inl hflight)
  have hw0 := hops 0 window rfl
  have hw1 := hops 1 setting rfl
  have hc0 := hopc 0 window rfl
  refine ⟨fun h => ⟨?_, ?_⟩, fun h hbig => ⟨?_, ?_⟩, fun w h hval => ⟨fun hno => ?_, fun hheld hset => ?_, ?_⟩⟩
  · rw [takeWatch_unconfigured (s := { s with region := m }) h] at hwatch
    exact onlyCompletes_of rfl hwf hm hwatch
  · rw [takeClearWritten_unconfigured (s := { s with region := n }) h] at hclear
    exact onlyCompletes_of rfl hwf hn hclear
  · rw [takeWatch_noWindow (s := { s with region := m }) h (by rw [hw0, windowOperand_of_le hbig])] at hwatch
    exact onlyCompletes_of rfl hwf hm hwatch
  · rw [takeClearWritten_noWindow (s := { s with region := n }) h (by rw [hc0, windowOperand_of_le hbig])] at hclear
    exact onlyCompletes_of rfl hwf hn hclear
  · rw [takeWatch_refused (s := { s with region := m }) h (by rw [hw0, windowOperand_of_val hval]) (by rwa [hw1])] at hwatch
    exact onlyCompletes_of rfl hwf hm hwatch
  · rw [takeWatch_set (s := { s with region := m }) h (by rw [hw0, windowOperand_of_val hval]) hheld (by rwa [hw1]),
      hw1] at hwatch
    exact ⟨_, completes_of rfl hwf hwatch hm rfl, rfl⟩
  · rw [takeClearWritten_clears (s := { s with region := n }) h (by rw [hc0, windowOperand_of_val hval])] at hclear
    exact ⟨_, completes_of rfl hwf hclear hn rfl, rfl⟩

/-! ## SEND_NOTICE and FENCE -/

theorem noticeOperandsOk_iff {target level tag : Word} : noticeOperandsOk target level tag = true ↔
    ¬ ((63 < target.toNat ∧ target.toNat ≠ 255) ∨ level.toNat < 1 ∨ 7 < level.toNat ∨ 65535 < tag.toNat) := by
  simp only [noticeOperandsOk, Bool.and_eq_true, Bool.or_eq_true, decide_eq_true_eq]
  omega

theorem takeSendNotice_badState (h : s.station ≠ .active) : s.takeSendNotice = s.complete .badState := if_neg h

theorem takeSendNotice_active (h : s.station = .active) : s.takeSendNotice =
    if noticeOperandsOk (s.operand 0) (s.operand 1) (s.operand 2) = true then
      if s.outbound.length < 64 then
        (s.appendOutbound
          (.notice ((s.operand 0).setWidth 8) ((s.operand 1).setWidth 3) ((s.operand 2).setWidth 16))).complete .done
      else s.complete .queueFull
    else s.complete .badOperand := if_pos h

/-- Settles O22: the checks of R100 in their order. -/
theorem sendNoticeQueuesAnEntry : Obligations.SendNoticeQueuesAnEntry := by
  intro s target level noticeTag tag hwf hstation hflight
  obtain ⟨m, hm, hexec, hops⟩ :=
    exec_pastGate (i := .sendNotice target level noticeTag tag) rfl runCommand_sendNotice hwf hstation (.inl hflight)
  split_ifs with hactive hoperands hfull
  · rw [takeSendNotice_badState (s := { s with region := m }) hactive] at hexec
    exact onlyCompletes_of rfl hwf hm hexec
  all_goals
    rw [takeSendNotice_active (s := { s with region := m }) (not_not.1 hactive), hops 0 target rfl, hops 1 level rfl,
      hops 2 noticeTag rfl] at hexec
  · rw [if_neg fun h => noticeOperandsOk_iff.1 h hoperands] at hexec
    exact onlyCompletes_of rfl hwf hm hexec
  · rw [if_pos (noticeOperandsOk_iff.2 hoperands), if_neg hfull.not_gt] at hexec
    exact onlyCompletes_of rfl hwf hm hexec
  · rw [if_pos (noticeOperandsOk_iff.2 hoperands), if_pos (not_le.1 hfull)] at hexec
    refine ⟨_, completes_of rfl hwf hexec hm rfl, ?_⟩
    simp only [BitVec.ofNat_toNat]
    rfl

theorem dropFences_of_fencesAtHead : ∀ {l : List OutboundEntry}, fencesAtHead l = [] → dropFences l = l
  | [], _ => rfl
  | .fence _ :: _, h => by cases h
  | .update _ _ _ _ _ :: _, _ => rfl
  | .notice _ _ _ :: _, _ => rfl

/-- With no FENCE at the head, nothing completes (R101). -/
theorem completeFences_of_none (h : fencesAtHead s.outbound = []) : s.completeFences = s := by
  rw [State.completeFences, h, dropFences_of_fencesAtHead h]
  rfl

theorem takeFence_badState (h : s.station.takesPart ≠ true) : s.takeFence = s.complete .badState := if_neg h

theorem takeFence_part (h : s.station.takesPart = true) : s.takeFence =
    if (s.operand 0).toNat ≤ 65535 then
      if s.outbound.length < 64 then
        (s.appendOutbound (.fence ((s.operand 0).setWidth 16))).completeFences.complete .done
      else s.complete .queueFull
    else s.complete .badOperand := if_pos h

/-- A FENCE that finds the queue empty completes at once (R101). -/
theorem completeFences_single (tag : Half) (h : s.outbound = []) : (s.appendOutbound (.fence tag)).completeFences =
    s.event (some tag) (.fenceDone false) := by
  have hq : (s.appendOutbound (.fence tag)).outbound = [.fence tag] := congrArg (· ++ [OutboundEntry.fence tag]) h
  have hback : { s.appendOutbound (.fence tag) with outbound := [] } = s :=
    congrArg (fun l => { s with outbound := l }) h.symm
  rw [State.completeFences, hq]
  exact congrArg (State.event · (some tag) (.fenceDone false)) hback

/-- A FENCE behind another entry completes nothing (R101). -/
theorem completeFences_behind (tag : Half) (hne : s.outbound ≠ []) (h : fencesAtHead s.outbound = []) :
    (s.appendOutbound (.fence tag)).completeFences = s.appendOutbound (.fence tag) := by
  refine completeFences_of_none ?_
  change fencesAtHead (s.outbound ++ [.fence tag]) = []
  cases hq : s.outbound with
  | nil => exact (hne hq).elim
  | cons e rest =>
    rw [hq] at h
    cases e with
    | fence => cases h
    | update | notice => rfl

/-- Settles O23: the checks of R101 in their order, and the queue that the entry finds. -/
theorem fenceQueuesOrCompletes : Obligations.FenceQueuesOrCompletes := by
  intro s fenceTag tag hwf hstation hflight hlimits
  obtain ⟨m, hm, hexec, hops⟩ :=
    exec_pastGate (i := .fence fenceTag tag) rfl runCommand_fence hwf hstation (.inl hflight)
  have hpart : s.station.takesPart = true ↔ ¬ (s.station ≠ .active ∧ s.station ≠ .leaving) := by
    cases s.station <;> decide
  split_ifs with hstate htag hfull hempty
  · rw [takeFence_badState (s := { s with region := m }) fun h => hpart.1 h hstate] at hexec
    exact onlyCompletes_of rfl hwf hm hexec
  all_goals rw [takeFence_part (s := { s with region := m }) (hpart.2 hstate), hops 0 fenceTag rfl] at hexec
  · rw [if_neg htag.not_ge] at hexec
    exact onlyCompletes_of rfl hwf hm hexec
  · rw [if_pos (not_lt.1 htag), if_neg hfull.not_lt] at hexec
    exact onlyCompletes_of rfl hwf hm hexec
  all_goals
    rw [if_pos (not_lt.1 htag), if_pos (lt_of_le_of_ne hlimits.outbound hfull)] at hexec
    simp only [BitVec.ofNat_toNat]
  · rw [completeFences_single (s := { s with region := m }) _ hempty] at hexec
    exact ⟨_, completes_of rfl hwf hexec hm rfl,
      ⟨hempty, (event_reports { s with region := m } _ _).from_eq rfl rfl⟩, rfl⟩
  · rw [completeFences_behind (s := { s with region := m }) _ hempty hlimits.noFenceAtHead] at hexec
    exact ⟨_, completes_of rfl hwf hexec hm rfl, ⟨rfl, Reports.refl s⟩, rfl⟩

/-! ## The event queue -/

/-- Settles O26, by induction on the events. -/
theorem eventQueueKeepsTheFirstThirtyTwo : Obligations.EventQueueKeepsTheFirstThirtyTwo := by
  intro s events
  induction events generalizing s with
  | nil =>
    intro hlen
    refine ⟨?_, ?_, ?_⟩
    · rw [List.append_nil, List.take_of_length_le hlen]
      rfl
    · change s.eventOverflow = true ↔ _
      simp only [List.length_nil, Nat.add_zero, not_lt.2 hlen, or_false]
    · simp [State.eventLine, State.reported]
  | cons e events ih =>
    intro hlen
    change ((s.appendEvent e).reported events).events = _ ∧ (((s.appendEvent e).reported events).eventOverflow = true ↔ _) ∧
      (((s.appendEvent e).reported events).eventLine = true ↔ _)
    by_cases hroom : s.events.length < 32
    · have hevents : (s.appendEvent e).events = s.events ++ [e] := if_pos hroom
      have hover : (s.appendEvent e).eventOverflow = s.eventOverflow := by
        change (s.eventOverflow || !decide (s.events.length < 32)) = _
        simp [hroom]
      have hih := ih (s.appendEvent e) (by rw [hevents, List.length_append]; exact hroom)
      rw [hevents, hover, List.append_assoc, List.singleton_append, List.length_append, List.length_singleton] at hih
      rw [List.length_cons, ← Nat.add_assoc, Nat.add_right_comm]
      exact hih
    · have hfull : s.events.length = 32 := le_antisymm hlen (not_lt.1 hroom)
      have hevents : (s.appendEvent e).events = s.events := if_neg hroom
      have hover : (s.appendEvent e).eventOverflow = true := by
        change (s.eventOverflow || !decide (s.events.length < 32)) = true
        simp [hroom]
      obtain ⟨hkept, hflag, hline⟩ := ih (s.appendEvent e) (hevents ▸ hlen)
      rw [hevents] at hkept hflag hline
      refine ⟨?_, ?_, ?_⟩
      · rw [hkept, List.take_append_of_le_length hfull.ge, List.take_append_of_le_length hfull.ge]
      · rw [hflag, hover, List.length_cons]
        simp only [true_or, true_iff]
        omega
      · have hne : s.events ≠ [] := fun h => by rw [h] at hfull; cases hfull
        rw [hline]
        simp [hne]

end Sys2Proof.Proofs

/-! What the host reads: the notices and their line (R161 to R163), the event records' bytes (R170, R174), the results of the
status commands (R167, R168) and the control region (R164, R171), against the layouts of R174. -/

namespace Sys2Proof.Proofs

-- One proof at a time: every further thread of the elaborator counts against the memory limit.
set_option Elab.async false

open Sys2Proof Sys2Proof.Machine Sys2Proof.Laws

variable {s : State} {w : WindowNo}

/-! ## The highest notice level -/

/-- No level holds a notice. -/
def noNotices (n : NoticeUnit) : Prop := ∀ i : Fin 7, (n.queue i).notices = []

/-- The level at this index holds a notice, and none above it does. -/
def highestAt (n : NoticeUnit) (i : Fin 7) : Prop :=
  (n.queue i).notices ≠ [] ∧ ∀ j : Fin 7, i < j → (n.queue j).notices = []

/-- The levels are asked from the highest down (R161). -/
theorem levels_descend :
    [(6 : Fin 7), 5, 4, 3, 2, 1, 0].Pairwise (· > ·) ∧ ∀ i : Fin 7, i ∈ [(6 : Fin 7), 5, 4, 3, 2, 1, 0] := by decide

theorem noNotices_of_highest {n : NoticeUnit} (h : n.highest = none) : noNotices n := by
  intro i
  have hi := List.find?_eq_none.1 h i (levels_descend.2 i)
  simpa using hi

theorem highestAt_of_highest {n : NoticeUnit} {i : Fin 7} (h : n.highest = some i) : highestAt n i := by
  obtain ⟨hi, before, after, hlist, hbefore⟩ := List.find?_eq_some_iff_append.1 h
  refine ⟨by simpa using hi, fun j hj => ?_⟩
  have hmem := levels_descend.2 j
  have hdown := levels_descend.1
  rw [hlist] at hmem hdown
  rcases List.mem_append.1 hmem with hb | ha
  · simpa using hbefore j hb
  · rcases List.mem_cons.1 ha with heq | ha
    · exact (hj.ne heq.symm).elim
    · exact (lt_asymm hj ((List.pairwise_cons.1 (List.pairwise_append.1 hdown).2.1).1 j ha)).elim

theorem highest_of_noNotices {n : NoticeUnit} (h : noNotices n) : n.highest = none := by
  cases hh : n.highest with
  | none => rfl
  | some i => exact ((highestAt_of_highest hh).1 (h i)).elim

theorem highest_of_highestAt {n : NoticeUnit} {i : Fin 7} (h : highestAt n i) : n.highest = some i := by
  cases hh : n.highest with
  | none => exact (h.1 (noNotices_of_highest hh i)).elim
  | some j =>
    have hj := highestAt_of_highest hh
    rcases lt_trichotomy i j with hlt | heq | hgt
    · exact (hj.1 (h.2 j hlt)).elim
    · rw [heq]
    · exact (h.1 (hj.2 i hgt)).elim

theorem highestLevel_of_highestAt {n : NoticeUnit} {i : Fin 7} (h : highestAt n i) : n.highestLevel = i.val + 1 := by
  rw [NoticeUnit.highestLevel, highest_of_highestAt h]

theorem highestLevel_of_noNotices {n : NoticeUnit} (h : noNotices n) : n.highestLevel = 0 := by
  rw [NoticeUnit.highestLevel, highest_of_noNotices h]

/-- The highest level is above the threshold exactly where some level above it holds a notice (R161). -/
theorem lt_highestLevel_iff {n : NoticeUnit} {threshold : Nat} :
    threshold < n.highestLevel ↔ ∃ i : Fin 7, (n.queue i).notices ≠ [] ∧ threshold < i.val + 1 := by
  cases hh : n.highest with
  | none =>
    rw [highestLevel_of_noNotices (noNotices_of_highest hh)]
    exact ⟨fun h => (Nat.not_lt_zero _ h).elim, fun ⟨i, hi, _⟩ => (hi (noNotices_of_highest hh i)).elim⟩
  | some i =>
    have hi := highestAt_of_highest hh
    rw [highestLevel_of_highestAt hi]
    refine ⟨fun h => ⟨i, hi.1, h⟩, fun ⟨j, hj, hlt⟩ => ?_⟩
    have hle : j ≤ i := not_lt.1 fun h => hj (hi.2 j h)
    have : j.val ≤ i.val := hle
    omega

/-! ## TAKE_NOTICE and SET_THRESHOLD -/

theorem takeTakeNotice_empty (h : noNotices s.notices) : s.takeTakeNotice = s.complete .empty := by
  rw [State.takeTakeNotice, highest_of_noNotices h]

theorem takeTakeNotice_some {i : Fin 7} {n : Notice} {rest : List Notice} (hq : (s.notices.queue i).notices = n :: rest)
    (hup : ∀ j : Fin 7, i < j → (s.notices.queue j).notices = []) :
    s.takeTakeNotice =
      ({ s with notices := s.notices.setQueue i { notices := rest, overrun := false } } : State).completeBytes .done
        (n.bytes (s.notices.queue i).overrun rest.length) := by
  rw [State.takeTakeNotice, highest_of_highestAt ⟨by rw [hq]; exact List.cons_ne_nil _ _, hup⟩]
  dsimp only
  rw [hq]

theorem takeSetThreshold_refused (h : 7 < (s.operand 0).toNat) : s.takeSetThreshold = s.complete .badOperand :=
  if_neg h.not_ge

theorem takeSetThreshold_set (h : (s.operand 0).toNat ≤ 7) : s.takeSetThreshold =
    ({ s with notices := { s.notices with threshold := (s.operand 0).toNat } } : State).complete .done := if_pos h

/-- Settles O24: the highest level that holds a notice decides what is taken and the NOTICE line. -/
theorem noticeCommandsServeTheHost : Obligations.NoticeCommandsServeTheHost := by
  intro s threshold tag hwf hstation hflight
  obtain ⟨m, hm, htake, -⟩ :=
    exec_pastGate (i := .takeNotice tag) rfl runCommand_takeNotice hwf hstation (.inl hflight)
  obtain ⟨n, hn, hset, hops⟩ :=
    exec_pastGate (i := .setThreshold threshold tag) rfl runCommand_setThreshold hwf hstation (.inl hflight)
  have h0 := hops 0 threshold rfl
  refine ⟨fun h => ?_, fun i n rest hq hup => ?_, fun h => ?_, fun h => ?_⟩
  · rw [takeTakeNotice_empty (s := { s with region := m }) h] at htake
    exact onlyCompletes_of rfl hwf hm htake
  · rw [takeTakeNotice_some (s := { s with region := m }) hq hup] at htake
    refine ⟨_, completes_of rfl hwf htake hm rfl, ?_, fun j hj => ?_, rfl, rfl⟩
    · exact (queue_setQueue _ _ _ _).trans (if_pos rfl)
    · exact (queue_setQueue _ _ _ _).trans (if_neg hj.symm)
  · rw [takeSetThreshold_refused (s := { s with region := n }) (by rwa [h0])] at hset
    exact onlyCompletes_of rfl hwf hn hset
  · rw [takeSetThreshold_set (s := { s with region := n }) (by rwa [h0]), h0] at hset
    exact ⟨_, completes_of rfl hwf hset hn rfl, decide_eq_true_iff.trans lt_highestLevel_iff, rfl⟩

/-! ## Bytes and codes -/

theorem bytesOfHalf_eq (h : Half) : bytesOfHalf h = twoBytes h.toNat := by
  have hhigh : (h >>> 8).setWidth 8 = BitVec.ofNat 8 (h.toNat / 256) := by
    apply BitVec.eq_of_toNat_eq
    simp [Nat.shiftRight_eq_div_pow]
  rw [bytesOfHalf, twoBytes, hhigh, BitVec.ofNat_toNat]

theorem halfOf_eq (n : Nat) : halfOf n = twoBytes n := by
  have hhigh : BitVec.ofNat 8 (n % 65536 / 256) = BitVec.ofNat 8 (n / 256) := by
    apply BitVec.eq_of_toNat_eq
    simp only [BitVec.toNat_ofNat]
    omega
  have hlow : BitVec.ofNat 8 (n % 65536) = BitVec.ofNat 8 n := by
    apply BitVec.eq_of_toNat_eq
    simp only [BitVec.toNat_ofNat]
    omega
  rw [halfOf, bytesOfHalf_eq, BitVec.toNat_ofNat, twoBytes, twoBytes]
  simp only [Nat.reducePow]
  rw [hhigh, hlow]

theorem halfOrAbsent_eq (x : Option Half) : halfOrAbsent x = twoBytesOr x := by
  cases x with
  | none => rfl
  | some h => exact bytesOfHalf_eq h

theorem tableByte_station (x : StationState) : tableByte stationStates x = byteOf x.code := by cases x <;> rfl

theorem tableByte_stationCause (x : StationCause) : tableByte stationCauses x = byteOf x.code := by cases x <;> rfl

theorem tableByte_currency (x : Currency) : tableByte currencies x = byteOf x.code := by cases x <;> rfl

theorem tableByte_windowCause (x : WindowCause) : tableByte windowCauses x = byteOf x.code := by cases x <;> rfl

theorem tableByte_failure (x : FailureKind) : tableByte failureKinds x = byteOf x.code := by cases x <;> rfl

theorem tableByte_fault (x : AccessFault) : tableByte accessFaults x = byteOf x.code := by cases x <;> rfl

theorem tableByte_completion (x : CompletionStatus) : tableByte completionStatuses x = byteOf x.code := by cases x <;> rfl

theorem tableByte_slotLoss (x : SlotLossCause) :
    tableByte [SlotLossCause.noClose, .framesShort, .inconsistent, .unopened] x = byteOf x.code := by cases x <;> rfl

theorem tableByte_ending (x : AccountEnding) : tableByte [AccountEnding.nextOpen, .expired] x = byteOf x.code := by
  cases x <;> rfl

theorem tableByte_depart (x : DepartCause) : tableByte [DepartCause.silent, .orderly, .foreign] x = byteOf x.code := by
  cases x <;> rfl

/-- The kind and the detail of an event record are those of R174's table. -/
theorem kindAndDetail_eq (d : EventDetail) : kindAndDetail d = (byteOf d.code, d.bytes) := by
  cases d with
  | stationState previous next cause count =>
    rw [kindAndDetail, tableByte_station, tableByte_station, tableByte_stationCause]
    rfl
  | windowState previous next cause attempts failure =>
    cases failure with
    | none =>
      rw [kindAndDetail, tableByte_currency, tableByte_currency, tableByte_windowCause]
      rfl
    | some kind =>
      rw [kindAndDetail, tableByte_currency, tableByte_currency, tableByte_windowCause, tableByte_failure]
      rfl
  | windowChanged | fenceDone | outboundFlushed | coldYield | peerArrived => rfl
  | catchUpDone donor blocks attempt =>
    rw [kindAndDetail, ← halfOf_eq]
    rfl
  | catchUpFailed attempts failure =>
    rw [kindAndDetail, tableByte_failure]
    rfl
  | ownFrameLost slot frame =>
    cases frame with
    | opn => rfl
    | upd window block first count =>
      rw [kindAndDetail, ← halfOf_eq]
      rfl
    | ntc target level tag =>
      rw [kindAndDetail, ← bytesOfHalf_eq]
      rfl
  | slotLoss cause slot ending frames updates closeCounts corrupt =>
    cases ending with
    | none => cases closeCounts <;> rw [kindAndDetail, tableByte_slotLoss] <;> rfl
    | some e => cases closeCounts <;> rw [kindAndDetail, tableByte_slotLoss, tableByte_ending] <;> rfl
  | peerDeparted cause lastHeard =>
    rw [kindAndDetail, tableByte_depart, ← halfOrAbsent_eq]
    rfl
  | hostFault kind offset write =>
    rw [kindAndDetail, tableByte_fault, ← halfOf_eq]
    rfl

/-- The mark byte of an event record (R174). -/
theorem eventMarks_eq (overflow : Bool) (subject : Option Half) :
    flagByte overflow ||| (flagByte subject.isNone <<< 1) =
      BitVec.ofNat 8 ((if overflow = true then 1 else 0) + if subject = none then 2 else 0) := by
  cases subject with
  | none => cases overflow <;> rfl
  | some x =>
    rw [if_neg (Option.some_ne_none x)]
    cases overflow
    · exact (by decide : flagByte false ||| flagByte false <<< 1 = BitVec.ofNat 8 (0 + 0))
    · exact (by decide : flagByte true ||| flagByte false <<< 1 = BitVec.ofNat 8 (1 + 0))

/-- The 16 bytes of an event record are those of R174. -/
theorem eventBytes_eq (e : Event) (overflow : Bool) : e.bytes overflow =
    [(kindAndDetail e.detail).1,
      BitVec.ofNat 8 ((if overflow = true then 1 else 0) + if e.subject = none then 2 else 0)] ++
      twoBytesOr e.subject ++ twoBytes e.round.toNat ++ (kindAndDetail e.detail).2 := by
  rw [Event.bytes, eventMarks_eq, halfOrAbsent_eq, bytesOfHalf_eq, kindAndDetail_eq]

/-! ## TAKE_EVENT -/

theorem takeTakeEvent_empty (h : s.events = []) : s.takeTakeEvent = s.complete .empty := by
  rw [State.takeTakeEvent, h]

theorem takeTakeEvent_some {e : Event} {rest : List Event} (h : s.events = e :: rest) : s.takeTakeEvent =
    ({ s with events := rest, eventOverflow := false } : State).completeBytes .done (e.bytes s.eventOverflow) := by
  rw [State.takeTakeEvent, h]

/-- Settles O25: the head of the event queue in the bytes of R174. -/
theorem takeEventReturnsTheOldest : Obligations.TakeEventReturnsTheOldest := by
  intro s tag hwf hstation hflight
  obtain ⟨m, hm, hexec, -⟩ :=
    exec_pastGate (i := .takeEvent tag) rfl runCommand_takeEvent hwf hstation (.inl hflight)
  refine ⟨fun h => ?_, fun e rest h => ?_⟩
  · rw [takeTakeEvent_empty (s := { s with region := m }) h] at hexec
    exact onlyCompletes_of rfl hwf hm hexec
  · rw [takeTakeEvent_some (s := { s with region := m }) h, eventBytes_eq] at hexec
    refine ⟨_, completes_of rfl hwf hexec hm rfl, ?_, rfl⟩
    change (!rest.isEmpty) = true ↔ _
    simp

/-! ## The status commands -/

/-- A window's place in the resync list (R167). -/
theorem resyncPlace_eq (s : State) (w : WindowNo) :
    s.resyncPlace w = if w ∈ s.resync then s.resync.idxOf w + 1 else 0 := by
  unfold State.resyncPlace
  split
  next h =>
    have hout : w ∉ s.resync := fun hmem => by simpa using List.findIdx?_eq_none_iff.1 h w hmem
    rw [if_neg hout]
  next i h =>
    obtain ⟨hlt, hidx⟩ := List.findIdx?_eq_some_iff_findIdx_eq.1 h
    have hplace : s.resync.idxOf w = i := hidx
    rw [if_pos (List.idxOf_lt_length_iff.1 (hplace ▸ hlt)), hplace]

/-- The catch-up fields of a WINDOW_STATUS by the record's phase (R167). -/
theorem phaseBytes_eq (phase : CatchUpPhase) :
    [byteOf phase.code, byteOrAbsent phase.donor] ++ halfOf phase.receivedCount =
      match phase with
      | .requested _ => [0, 0xFF, 0, 0]
      | .copying donor _ received => [1, donor] ++ halfOf received.length := by
  cases phase with
  | requested wait => exact (by decide : [byteOf 0, byteOrAbsent none] ++ halfOf 0 = [0, 0xFF, 0, 0])
  | copying donor stall received => rfl

theorem windowStatusBytes_eq (s : State) (w : WindowNo) : s.windowStatusBytes w =
    halfOf (s.window w).globalLength ++ [byteOf (s.window w).accessCode] ++
      (match (s.window w).holding with
        | none => [0, 0, 0, 0, 0]
        | some h => [byteOf h.direction.code] ++ halfOf h.count ++ halfOf h.base) ++
      [byteOf (s.window w).currency.code, byteOf (s.window w).attempts, flagByte (s.window w).written,
        flagByte (s.window w).watch, byteOf ((s.window w).coldMark.getD 0),
        byteOf (if w ∈ s.resync then s.resync.idxOf w + 1 else 0)] ++
      (match s.catchUp with
        | none => [0xFF, 0xFF, 0xFF, 0xFF, 0xFF]
        | some c =>
          if c.window = w then
            [byteOf c.attempt] ++ (match c.phase with
              | .requested _ => [0, 0xFF, 0, 0]
              | .copying donor _ received => [1, donor] ++ halfOf received.length)
          else [0xFF, 0xFF, 0xFF, 0xFF, 0xFF]) := by
  have hmark : (s.window w).markValue = (s.window w).coldMark.getD 0 := by
    unfold WindowRecord.markValue
    cases (s.window w).coldMark <;> rfl
  have hcatch : s.catchUpBytes w = match s.catchUp with
      | none => [0xFF, 0xFF, 0xFF, 0xFF, 0xFF]
      | some c =>
        if c.window = w then
          [byteOf c.attempt] ++ (match c.phase with
            | .requested _ => [0, 0xFF, 0, 0]
            | .copying donor _ received => [1, donor] ++ halfOf received.length)
        else [0xFF, 0xFF, 0xFF, 0xFF, 0xFF] := by
    unfold State.catchUpBytes
    cases s.catchUp with
    | none => rfl
    | some c => exact congrArg (fun l => if c.window = w then byteOf c.attempt :: l else _) (phaseBytes_eq c.phase)
  rw [State.windowStatusBytes, hmark, hcatch, resyncPlace_eq]
  rfl

theorem takeWindowStatus_unconfigured (h : s.station = .unconfigured) : s.takeWindowStatus = s.complete .badState := if_pos h

theorem takeWindowStatus_noWindow (h : s.station ≠ .unconfigured) (hw : windowOperand (s.operand 0) = none) :
    s.takeWindowStatus = s.complete .badOperand := by
  rw [State.takeWindowStatus, if_neg h, hw]

theorem takeWindowStatus_some (h : s.station ≠ .unconfigured) (hw : windowOperand (s.operand 0) = some w) :
    s.takeWindowStatus = s.completeBytes .done (s.windowStatusBytes w) := by
  rw [State.takeWindowStatus, if_neg h, hw]

theorem takeRosterStatus_refused (h : 30 < (s.operand 0).toNat) : s.takeRosterStatus = s.complete .badOperand :=
  if_neg h.not_ge

theorem takeRosterStatus_beyond (h : (s.operand 0).toNat ≤ 30) (hr : s.roster[(s.operand 0).toNat]? = none) :
    s.takeRosterStatus = s.completeBytes .empty [byteOf s.roster.length] := by
  rw [State.takeRosterStatus, if_pos h, hr]

theorem takeRosterStatus_some {r : RosterRecord} (h : (s.operand 0).toNat ≤ 30)
    (hr : s.roster[(s.operand 0).toNat]? = some r) :
    s.takeRosterStatus = s.completeBytes .done (r.statusBytes s.roster.length) := by
  rw [State.takeRosterStatus, if_pos h, hr]

/-- The 12 bytes of a serving record (R174). -/
theorem servingBytes_eq (r : ServingRecord) : r.statusBytes =
    [r.joiner, byteOf r.window.val] ++ halfOf r.first ++ halfOf r.last ++
      (match r.phase with
        | .offered => [0, 0, 0xFF, 0xFF]
        | .serving next => [1, 0] ++ halfOf next) ++ bytesOfHalf r.beginRound := by
  unfold ServingRecord.statusBytes
  cases r.phase <;> rfl

theorem stationStatusBytes_eq (s : State) : s.stationStatusBytes =
    [byteOf s.station.code, byteOrAbsent (s.profile.map Profile.station)] ++
      halfOrAbsent (s.profile.map Profile.digest) ++ bytesOfHalf s.clock.round ++
      [byteOf s.resync.length, byteOrAbsent (s.catchUp.map fun c => byteOf c.window.val), byteOf s.control.length,
        byteOf s.outbound.length, byteOf s.serving.length, 0] ++
      (s.serving.map fun r =>
        [r.joiner, byteOf r.window.val] ++ halfOf r.first ++ halfOf r.last ++
          (match r.phase with
            | .offered => [0, 0, 0xFF, 0xFF]
            | .serving next => [1, 0] ++ halfOf next) ++ bytesOfHalf r.beginRound).flatten := by
  rw [State.stationStatusBytes, List.map_congr_left fun r _ => servingBytes_eq r]

/-! ## The words of the control region -/

theorem controlRead_result (s : State) (i : Fin 16) : s.controlRead (0x248 + 4 * i.val) = s.completion.result[i] := by
  have hi := i.isLt
  unfold State.controlRead
  rw [if_neg (by rw [issueAt]; omega), if_neg (by omega), if_neg (by omega), if_pos (by omega),
    show (0x248 + 4 * i.val - 0x248) / 4 = i.val by omega]
  simp

theorem controlRead_unused {offset : Nat}
    (h : (0x220 ≤ offset ∧ offset < 0x240) ∨ (0x288 ≤ offset ∧ offset < 0x300) ∨ 0x314 ≤ offset) : s.controlRead offset = 0 := by
  unfold State.controlRead
  rw [if_neg (by rw [issueAt]; omega), if_neg (by omega), if_neg (by omega), if_neg (by omega), if_neg (by omega),
    if_neg (by omega), if_neg (by omega), if_neg (by omega), if_neg (by omega)]

theorem stationWord_eq (s : State) : s.stationWord = match s.profile with
    | none => wordOf (tableByte stationStates s.station) (truthByte s.inFlight.isSome) 0xFF 0xFF
    | some p => wordOf (tableByte stationStates s.station) (truthByte s.inFlight.isSome) 0 p.station := by
  have hown (x : Byte) : bytesOfHalf (BitVec.setWidth 16 x) = [0, x] := by
    have hhigh : (BitVec.setWidth 16 x >>> 8).setWidth 8 = 0 := by
      apply BitVec.eq_of_toNat_eq
      have := x.isLt
      simp [Nat.shiftRight_eq_div_pow]
      omega
    have hlow : (BitVec.setWidth 16 x).setWidth 8 = x := by
      apply BitVec.eq_of_toNat_eq
      have := x.isLt
      simp
    rw [bytesOfHalf, hhigh, hlow]
  rw [State.stationWord, tableByte_station]
  cases s.profile with
  | none => rfl
  | some p => rw [Option.map_some, halfOrAbsent, hown]; rfl

theorem statusWord_eq (c : Completion) : ∃ high low, twoBytes c.count.toNat = [high, low] ∧
    c.statusWord = wordOf (tableByte completionStatuses c.status) c.code high low := by
  refine ⟨_, _, (bytesOfHalf_eq c.count).symm, ?_⟩
  rw [tableByte_completion]
  rfl

/-- Settles O27: the reads of the control region by their offsets, and the three status commands. -/
theorem statusCommandsReadTheState : Obligations.StatusCommandsReadTheState := by
  refine ⟨fun s offset _ => ⟨fun h => if_pos h, ?_, ?_, ?_, ?_, ?_, ?_, ?_, ?_, controlRead_unused⟩, ?_⟩
  · rintro rfl
    exact statusWord_eq s.completion
  · rintro rfl
    rfl
  · rintro i rfl
    exact controlRead_result s i
  · rintro rfl
    exact stationWord_eq s
  · rintro rfl
    exact (show s.roundWord = _ from (BitVec.ofNat_toNat 32 s.clock.round).symm)
  · rintro rfl
    rfl
  · rintro rfl
    rfl
  · rintro rfl
    exact ⟨fun i hi hup => congrArg (BitVec.ofNat 32) (highestLevel_of_highestAt ⟨hi, hup⟩),
      fun h => congrArg (BitVec.ofNat 32) (highestLevel_of_noNotices h)⟩
  · intro s operand tag hwf hstation hflight
    obtain ⟨m, hm, hwindow, hopw⟩ :=
      exec_pastGate (i := .windowStatus operand tag) rfl runCommand_windowStatus hwf hstation (.inl hflight)
    obtain ⟨n, hn, hroster, hopr⟩ :=
      exec_pastGate (i := .rosterStatus operand tag) rfl runCommand_rosterStatus hwf hstation (.inl hflight)
    obtain ⟨k, hk, hstatus, -⟩ :=
      exec_pastGate (i := .stationStatus tag) rfl runCommand_stationStatus hwf hstation (.inl hflight)
    have hw0 := hopw 0 operand rfl
    have hr0 := hopr 0 operand rfl
    refine ⟨fun h => ?_, fun h hbig => ?_, fun w h hval => ?_, fun h => ?_, fun h hlen => ?_, fun r h hr => ?_, ?_⟩
    · rw [takeWindowStatus_unconfigured (s := { s with region := m }) h] at hwindow
      exact onlyCompletes_of rfl hwf hm hwindow
    · rw [takeWindowStatus_noWindow (s := { s with region := m }) h (by rw [hw0, windowOperand_of_le hbig])] at hwindow
      exact onlyCompletes_of rfl hwf hm hwindow
    · rw [takeWindowStatus_some (s := { s with region := m }) h (by rw [hw0, windowOperand_of_val hval]),
        windowStatusBytes_eq] at hwindow
      exact onlyCompletes_of rfl hwf hm hwindow
    · rw [takeRosterStatus_refused (s := { s with region := n }) (by rwa [hr0])] at hroster
      exact onlyCompletes_of rfl hwf hn hroster
    · rw [takeRosterStatus_beyond (s := { s with region := n }) (by rwa [hr0])
        (by rw [hr0]; exact List.getElem?_eq_none hlen)] at hroster
      exact onlyCompletes_of rfl hwf hn hroster
    · rw [takeRosterStatus_some (s := { s with region := n }) (by rwa [hr0]) (by rw [hr0]; exact hr)] at hroster
      exact onlyCompletes_of rfl hwf hn hroster
    · rw [State.takeStationStatus, stationStatusBytes_eq] at hstatus
      exact onlyCompletes_of rfl hwf hk hstatus

end Sys2Proof.Proofs

/-! The store and the host's data accesses: the init pass (R16), the checks of R9 in their order, what is decided as it is
taken and what at the grant (R11 to R14), and the frame claims (R19, R20). -/

namespace Sys2Proof.Proofs

-- One proof at a time: every further thread of the elaborator counts against the memory limit.
set_option Elab.async false

open Sys2Proof Sys2Proof.Machine Sys2Proof.Laws

variable {s t : State} {a : HostAccess} {w : WindowNo}

/-! ## Words of a store block -/

theorem storeAddress_add (block first i : Nat) : storeAddress block (first + i) = storeAddress block first + 4 * i := by
  unfold storeAddress
  omega

/-- The words written into a block are read back, and every byte before and behind them reads as before (R15). -/
theorem writeStore_reads (hwf : s.store.wf = true) (block first : Nat) (words : List Word) :
    (∀ i, i < words.length →
      (s.writeStore block first words).store.readWord (block * 64 + (first + i) * 4) = words.getD i 0) ∧
    (∀ b, b < block * 64 + first * 4 ∨ block * 64 + (first + words.length) * 4 ≤ b →
      (s.writeStore block first words).store.read b = s.store.read b) := by
  refine ⟨fun i hi => ?_, fun b hb => ?_⟩
  · exact (congrArg _ (storeAddress_add block first i)).trans (readWord_writeWords _ words i hwf hi)
  · refine (read_writeWords _ words b hwf).trans (if_neg ?_)
    unfold storeAddress
    omega

theorem wordByte_zero : ∀ k, wordByte 0 k = 0 := by
  intro k
  simp [wordByte]

/-- The init pass zeroes the 64 bytes of its block (R16). -/
theorem read_zeroed (hwf : s.store.wf = true) (b x : Nat) :
    (s.store.writeWords (storeAddress b 0) (List.replicate 16 0)).read x =
      if b * 64 ≤ x ∧ x < b * 64 + 64 then 0 else s.store.read x := by
  have hzero : ∀ k, (List.replicate 16 (0 : Word)).getD k 0 = 0 := by
    intro k
    rw [List.getD_eq_getElem?_getD, List.getElem?_replicate]
    split <;> rfl
  rw [read_writeWords _ _ _ hwf, List.length_replicate, hzero, wordByte_zero]
  refine if_congr ?_ rfl rfl
  unfold storeAddress
  omega

theorem execInitPassStep_zeroes {b : Nat} (hpass : s.initPass = some b) (hb : b < 8192) :
    execInitPassStep s =
      if b + 1 < 8192 then .next { s.writeStore b 0 (List.replicate 16 0) with initPass := some (b + 1) }
      else .next (s.writeStore b 0 (List.replicate 16 0)).initDone := by
  unfold execInitPassStep
  rw [hpass]
  exact if_pos (storeHas_of_lt hb)

/-- Settles O5, for a block below the last and for the last. -/
theorem initPassStepZeroesOneBlock : Obligations.InitPassStepZeroesOneBlock := by
  intro s b hpass hb hwf
  have hexec : exec .initPassStep s = _ := execInitPassStep_zeroes hpass (Nat.lt_succ_of_le hb)
  have hread := read_zeroed hwf b
  rw [State.writeStore] at hexec
  generalize s.store.writeWords (storeAddress b 0) (List.replicate 16 0) = zeroed at hexec hread
  by_cases hlast : b = 8191
  · rw [if_neg (by omega)] at hexec
    refine ⟨_, hexec, hread, ?_, rfl⟩
    rw [if_pos hlast]
    exact ⟨rfl, rfl, (enter_reports { s with store := zeroed, initPass := none } _ _ _).from_eq rfl rfl⟩
  · rw [if_pos (by omega)] at hexec
    refine ⟨_, hexec, hread, ?_, rfl⟩
    rw [if_neg hlast]
    exact ⟨rfl, rfl, Reports.refl s⟩

/-! ## The checks of R9 -/

/-- The first of a list of checks fails, or the rest decide. -/
theorem firstFalse_cons {α : Type} (c : Bool) (kind : α) (checks : List (Bool × α)) :
    (((c, kind) :: checks).find? fun c => !c.1).map Prod.snd =
      if c = true then (checks.find? fun c => !c.1).map Prod.snd else some kind := by
  cases c <;> rfl

/-- A chain of conditions that ends in a kind each is the list of the checks that they negate. -/
theorem ite_eq_firstFalse {α : Type} {c : Bool} {P : Prop} [Decidable P] {kind : α} {rest : Option α}
    {checks : List (Bool × α)} (h : c = true ↔ ¬ P) (hrest : ¬ P → rest = (checks.find? fun c => !c.1).map Prod.snd) :
    (if P then some kind else rest) = (((c, kind) :: checks).find? fun c => !c.1).map Prod.snd := by
  rw [firstFalse_cons]
  by_cases hP : P
  · rw [if_pos hP, if_neg fun hc => h.1 hc hP]
  · rw [if_neg hP, if_pos (h.2 hP), hrest hP]

theorem takesPart_iff {station : StationState} : station.takesPart = true ↔ station = .active ∨ station = .leaving := by
  cases station <;> decide

theorem hostAccessAllowed_eq (s : State) : s.hostAccessAllowed = hostAccessOpen s := by
  unfold State.hostAccessAllowed hostAccessOpen
  cases s.station <;> rfl

theorem readOnly_iff {r : WindowRecord} : r.readOnly = true ↔ r.accessCode ≠ 2 := by
  unfold WindowRecord.readOnly WindowRecord.accessCode
  rcases r.holding with _ | ⟨mode, count, direction, base⟩
  · simp
  · cases mode <;> simp

/-- The model's checks are those of R9's table, in its order. -/
theorem accessFault_eq (s : State) (a : HostAccess) : s.accessFault a = firstFailed (accessChecks s a) := by
  unfold State.accessFault accessChecks
  refine ite_eq_firstFalse ?_ fun _ => ite_eq_firstFalse ?_ fun _ => ite_eq_firstFalse ?_ fun _ =>
    ite_eq_firstFalse ?_ fun _ => ite_eq_firstFalse ?_ fun _ => ite_eq_firstFalse ?_ fun _ =>
    ite_eq_firstFalse ?_ fun _ => ite_eq_firstFalse ?_ fun _ => ite_eq_firstFalse ?_ fun _ => rfl
  · simp [hostAccessAllowed_eq]
  · simp [WindowRecord.isHeld]
  · simp
  · simp
  · simp
  · simp only [← takesPart_iff, decide_eq_true_eq, Bool.and_eq_true, bne_iff_ne]
    tauto
  · simp only [← takesPart_iff, decide_eq_true_eq, Bool.and_eq_true, readOnly_iff]
    tauto
  · simp only [← takesPart_iff, decide_eq_true_eq, Bool.and_eq_true, bne_iff_ne]
    tauto
  · simp only [← takesPart_iff, decide_eq_true_eq, Bool.and_eq_true, Bool.not_eq_true']
    cases s.queueTakes a <;> simp

/-! ## Taking and granting an access -/

/-- An access that waits for the arbiter (R12, R13); the others are decided as they are taken. -/
theorem needsClaim_iff (s : State) (a : HostAccess) :
    s.needsClaim a = true ↔ hostAccessOpen s = true ∧ ¬ (s.station.takesPart = true ∧ a.isWrite = true) := by
  rw [State.needsClaim, hostAccessAllowed_eq, Bool.and_eq_true, Bool.not_eq_true', ← Bool.not_eq_true, Bool.and_eq_true]

theorem exec_hostDataAccess_waits (hc : s.hostClaim = none) (hneeds : s.needsClaim a = true) :
    exec (.hostDataAccess a.address a.lanes a.access) s =
      .next { s with hostClaim := some ⟨a, s.station.takesPart⟩, busResponse := none } := by
  change execHostDataAccess a.address a.lanes a.access s = _
  unfold execHostDataAccess
  rw [hc]
  exact if_pos hneeds

theorem exec_hostDataAccess_decided (hc : s.hostClaim = none) (hneeds : ¬ s.needsClaim a = true) :
    exec (.hostDataAccess a.address a.lanes a.access) s = s.decideAccess a := by
  change execHostDataAccess a.address a.lanes a.access s = _
  unfold execHostDataAccess
  rw [hc]
  exact if_neg hneeds

theorem exec_hostStoreClaimGranted {c : HostClaim} (hc : s.hostClaim = some c) (hf : s.frameClaims = [])
    (hr : s.copyRead = none) : exec .hostStoreClaimGranted s = State.decideClaim { s with hostClaim := none } c := by
  change execHostStoreClaimGranted s = _
  unfold execHostStoreClaimGranted
  rw [hc, hf, hr]
  rfl

theorem decideAccess_fault {kind : AccessFault} (h : s.accessFault a = some kind) :
    s.decideAccess a = .next (s.hostFault a kind) := by
  unfold State.decideAccess
  rw [h]

/-- A faulted access is answered with an error and reports the fault (R11). -/
theorem hostFault_reports (s : State) (a : HostAccess) (kind : AccessFault) :
    Reports s (s.hostFault a kind) [⟨subjectOf a.windowField, s.clock.round, .hostFault kind a.offset a.isWrite⟩] :=
  (event_reports (s.respond _) _ _).from_eq rfl rfl

/-- A claim that passes the checks at its grant has not been overtaken (R13). -/
theorem overtaken_iff {c : HostClaim} :
    c.overtaken s = true ↔ ¬ (c.onLine = true → s.station = .active ∨ s.station = .leaving) := by
  rw [← takesPart_iff]
  simp [HostClaim.overtaken]

theorem decideClaim_fault {c : HostClaim} {kind : AccessFault} (h : firstFailed (claimChecks s c) = some kind) :
    s.decideClaim c = .next (s.hostFault c.access kind) := by
  rw [claimChecks, firstFailed, firstFalse_cons, ← firstFailed] at h
  unfold State.decideClaim
  by_cases hover : c.overtaken s = true
  · rw [if_neg (by rw [decide_eq_true_eq]; exact overtaken_iff.1 hover)] at h
    cases h
    exact if_pos hover
  · rw [if_pos (by rw [decide_eq_true_eq]; exact not_not.1 (mt overtaken_iff.2 hover)), ← accessFault_eq] at h
    exact (if_neg hover).trans (decideAccess_fault h)

theorem decideClaim_pass {c : HostClaim} (h : firstFailed (claimChecks s c) = none) :
    s.decideClaim c = s.decideAccess c.access ∧ s.accessFault c.access = none := by
  rw [claimChecks, firstFailed, firstFalse_cons, ← firstFailed] at h
  split at h
  next hnot =>
    rw [decide_eq_true_eq] at hnot
    exact ⟨if_neg fun hover => overtaken_iff.1 hover hnot, (accessFault_eq _ _).trans h⟩
  next => cases h

/-- Settles O6: as an access is taken, and at the grant of its claim. -/
theorem accessFaultsAtItsFirstFailedCheck : Obligations.AccessFaultsAtItsFirstFailedCheck := by
  refine ⟨fun s a kind hfail hc hnow => ?_, fun s c kind hfail hc hf hr => ?_⟩
  · have hneeds : ¬ s.needsClaim a = true := by
      rw [needsClaim_iff]
      rintro ⟨hopen, hwrite⟩
      exact hnow.elim (fun h => Bool.false_ne_true (h.symm.trans hopen)) hwrite
    have hexec := (exec_hostDataAccess_decided hc hneeds).trans (decideAccess_fault ((accessFault_eq s a).trans hfail))
    exact ⟨_, hexec, rfl, hostFault_reports s a kind, rfl⟩
  · have hdecided := decideClaim_fault (s := { s with hostClaim := none }) hfail
    exact ⟨_, (exec_hostStoreClaimGranted hc hf hr).trans hdecided, rfl,
      (hostFault_reports { s with hostClaim := none } c.access kind).from_eq rfl rfl, rfl⟩

/-! ## On-line writes -/

theorem isWrite_of_write {v : Word} (h : a.access = .write v) : a.isWrite = true := by
  rw [HostAccess.isWrite, h]

theorem decideAccess_queue {v : Word} (hf : s.accessFault a = none) (hv : a.access = .write v)
    (hon : s.station.takesPart = true) : s.decideAccess a = .next (s.accessQueue a v) := by
  unfold State.decideAccess
  rw [hf, hv]
  exact if_pos hon

theorem accessQueue_eq {v : Word} (hw : a.window = some w) :
    s.accessQueue a v = (s.takeWrite w a.block a.word v).respond .writeDone := by
  unfold State.accessQueue
  rw [hw]

/-- The tail entry that a write merges into, and what it becomes (R98). -/
theorem takeWrite_merges {block word : Nat} {v : Word} {w' : WindowNo} {eblock : BitVec 10} {first : BitVec 4}
    {words : List Word} {isSealed : Bool} (hlast : s.outbound.getLast? = some (.update w' eblock first words isSealed))
    (hm : isSealed = false ∧ w' = w ∧ eblock.toNat = block ∧ first.toNat ≤ word ∧ word ≤ first.toNat + words.length) :
    s.takeWrite w block word v = { s with outbound := s.outbound.dropLast ++
      [if word < first.toNat + words.length then .update w eblock first (words.set (word - first.toNat) v) false
        else .update w eblock first (words ++ [v]) false] } := by
  obtain ⟨hseal, hw, hb, hlow, hhigh⟩ := hm
  have htail : s.tailMerges w block word = true := by
    rw [State.tailMerges, hlast]
    simp [OutboundEntry.merges, hseal, hw, hb, hlow, hhigh]
  rw [State.takeWrite, if_pos htail, hlast, hseal, hw]
  rfl

theorem takeWrite_appends {block word : Nat} {v : Word} (h : s.tailMerges w block word = false) :
    s.takeWrite w block word v =
      { s with outbound := s.outbound ++ [.update w (BitVec.ofNat 10 block) (BitVec.ofNat 4 word) [v] false] } := by
  rw [State.takeWrite, if_neg (by rw [h]; exact Bool.false_ne_true)]
  rfl

/-- Settles O7, by the tail of the Outbound Queue. -/
theorem onLineWriteIsQueued : Obligations.OnLineWriteIsQueued := by
  intro s a w v hv hw hc hactive hpass
  have hon : s.station.takesPart = true := takesPart_iff.2 (.inl hactive)
  have hneeds : ¬ s.needsClaim a = true := by
    rw [needsClaim_iff]
    exact fun h => h.2 ⟨hon, isWrite_of_write hv⟩
  have hexec := (exec_hostDataAccess_decided hc hneeds).trans
    (decideAccess_queue ((accessFault_eq s a).trans hpass) hv hon)
  rw [accessQueue_eq hw] at hexec
  have happend (h : s.tailMerges w a.block a.word = false) : ∃ t, exec (.hostDataAccess a.address a.lanes a.access) s = .next t ∧
      t.busResponse = some .writeDone ∧
      t.outbound = s.outbound ++ [.update w (BitVec.ofNat 10 a.block) (BitVec.ofNat 4 a.word) [v] false] ∧
      t = { s with busResponse := some .writeDone, outbound := t.outbound } := by
    rw [takeWrite_appends h] at hexec
    exact ⟨_, hexec, rfl, rfl, rfl⟩
  cases hlast : s.outbound.getLast? with
  | none => exact happend (by rw [State.tailMerges, hlast])
  | some e =>
    cases e with
    | fence | notice =>
      exact happend (by rw [State.tailMerges, hlast]; rfl)
    | update w' block first words isSealed =>
      dsimp only
      split_ifs with hover hbehind
      · obtain ⟨h1, h2, h3, h4, h5⟩ := hover
        rw [takeWrite_merges hlast ⟨h1, h2, h3, h4, h5.le⟩, if_pos h5] at hexec
        exact ⟨_, hexec, rfl, rfl, rfl⟩
      · obtain ⟨h1, h2, h3, h4⟩ := hbehind
        rw [takeWrite_merges hlast ⟨h1, h2, h3, by omega, h4.le⟩, if_neg (by omega)] at hexec
        exact ⟨_, hexec, rfl, rfl, rfl⟩
      · refine happend ?_
        rw [State.tailMerges, hlast, ← Bool.not_eq_true]
        intro hm
        simp only [OutboundEntry.merges, Bool.and_eq_true, Bool.not_eq_true', decide_eq_true_eq] at hm
        obtain ⟨⟨⟨⟨h1, h2⟩, h3⟩, h4⟩, h5⟩ := hm
        rcases h5.lt_or_eq with hlt | heq
        · exact hover ⟨h1, h2, h3, h4, hlt⟩
        · exact hbehind ⟨h1, h2, h3, heq⟩

/-! ## Accesses to the store -/

theorem accessStore_read {block : Nat} (hb : (s.addressed a).storeBlock a.block = some block) (hlt : block < 8192)
    (hread : a.access = .read) :
    s.accessStore a = .next (s.respond (.readDone (s.store.readWord (storeAddress block a.word)))) := by
  unfold State.accessStore State.accessBlock
  rw [hb, hread]
  exact if_pos (storeHas_of_lt hlt)

theorem accessStore_write {block : Nat} {v : Word} (hb : (s.addressed a).storeBlock a.block = some block)
    (hlt : block < 8192) (hv : a.access = .write v) :
    s.accessStore a = .next ((s.writeStore block a.word [v]).respond .writeDone) := by
  unfold State.accessStore State.accessBlock
  rw [hb, hv]
  exact if_pos (storeHas_of_lt hlt)

theorem decideAccess_read (hf : s.accessFault a = none) (hread : a.access = .read) : s.decideAccess a = s.accessStore a := by
  unfold State.decideAccess
  rw [hf, hread]

theorem decideAccess_offLine {v : Word} (hf : s.accessFault a = none) (hv : a.access = .write v)
    (hoff : s.station.takesPart = false) : s.decideAccess a = s.accessStore a := by
  unfold State.decideAccess
  rw [hf, hv]
  exact if_neg (by rw [hoff]; exact Bool.false_ne_true)

theorem exec_hostStoreClaimGranted_waits (h : s.hostClaim = none ∨ s.frameClaims ≠ [] ∨ s.copyRead ≠ none) :
    exec .hostStoreClaimGranted s = .next s := by
  change execHostStoreClaimGranted s = _
  unfold execHostStoreClaimGranted
  split
  · rfl
  next c hc =>
    refine if_neg ?_
    rw [Bool.and_eq_true, List.isEmpty_iff, Option.isNone_iff_eq_none]
    rintro ⟨hf, hr⟩
    rcases h with h | h | h
    · rw [hc] at h
      cases h
    · exact h hf
    · exact h hr

/-- Settles O8: the waits, the making of a claim, and the read and the off-line write at the grant. -/
theorem accessReachesTheStoreAtItsGrant : Obligations.AccessReachesTheStoreAtItsGrant := by
  refine ⟨fun s a hc => if_pos (Option.isSome_iff_ne_none.2 hc), fun s => exec_hostStoreClaimGranted_waits,
    fun s a block hwf => ⟨fun hc hopen hwrite => ?_, fun onLine hc hf hr hpass hb hlt => ⟨fun hread => ?_, fun v hv hst => ?_⟩⟩⟩
  · refine exec_hostDataAccess_waits hc ((needsClaim_iff s a).2 ⟨hopen, fun ⟨hon, hw⟩ => ?_⟩)
    rw [hwrite hw] at hon
    cases hon
  · obtain ⟨hdecide, hnone⟩ := decideClaim_pass (s := { s with hostClaim := none }) (c := ⟨a, onLine⟩) hpass
    rw [exec_hostStoreClaimGranted hc hf hr, hdecide, decideAccess_read hnone hread,
      accessStore_read (s := { s with hostClaim := none }) hb hlt hread]
    rfl
  · obtain ⟨hdecide, hnone⟩ := decideClaim_pass (s := { s with hostClaim := none }) (c := ⟨a, onLine⟩) hpass
    have hoff : s.station.takesPart = false := by rw [hst]; rfl
    have hreads := writeStore_reads hwf block a.word [v]
    have hexec := (exec_hostStoreClaimGranted hc hf hr).trans (hdecide.trans
      ((decideAccess_offLine (s := { s with hostClaim := none }) hnone hv hoff).trans
        (accessStore_write (s := { s with hostClaim := none }) hb hlt hv)))
    rw [State.writeStore] at hexec hreads
    generalize s.store.writeWords (storeAddress block a.word) [v] = written at hexec hreads
    refine ⟨_, hexec, rfl, hreads.1 0 Nat.zero_lt_one, fun b hout => hreads.2 b ?_, rfl⟩
    rw [List.length_singleton]
    omega

/-! ## Frame claims -/

theorem exec_updateApplied {peer : Option StationNo} {block first : Nat} {words : List Word} {rest : List FrameClaim}
    (hq : s.frameClaims = .update peer w block first words :: rest) (hlt : block < 8192) :
    exec .updateApplied s = .next (State.applyUpdate { s with frameClaims := rest } peer w block first words) := by
  change execUpdateApplied s = _
  unfold execUpdateApplied
  rw [hq]
  exact if_pos (storeHas_of_lt hlt)

theorem exec_copiedBlockWritten {block : Nat} {words : List Word} {rest : List FrameClaim}
    (hq : s.frameClaims = .copied w block words :: rest) (hlt : block < 8192) :
    exec .copiedBlockWritten s =
      .next ((State.writeStore { s with frameClaims := rest } block 0 words).setWritten w) := by
  change execCopiedBlockWritten s = _
  unfold execCopiedBlockWritten
  rw [hq]
  exact if_pos (storeHas_of_lt hlt)

/-- The written flag of one window is set, and no other record changes (R6). -/
theorem setWritten_windows (s : State) (w : WindowNo) :
    (s.setWritten w).window w = { s.window w with written := true } ∧
      ∀ v, v ≠ w → (s.setWritten w).window v = s.window v := by
  refine ⟨setWindow_window_self _ _ _, fun v hv => ?_⟩
  exact (setWindow_window _ _ _ _).trans (if_neg hv.symm)

/-- What an update reports: a peer's that sets a watched window's flag (R39). -/
theorem applyUpdate_eq (s : State) (peer : Option StationNo) (w : WindowNo) (block first : Nat) (words : List Word) :
    ∃ t, s.applyUpdate peer w block first words = t ∧
      Reports s t (match peer with
        | some sender =>
          if (s.window w).watch = true ∧ (s.window w).written = false then
            [⟨subjectOf w.val, s.clock.round, .windowChanged sender⟩]
          else []
        | none => []) ∧
      t = { s with store := (s.writeStore block first words).store, windows := (s.setWritten w).windows
                   events := t.events, eventOverflow := t.eventOverflow } := by
  have hdue : s.changeDue peer w = if (s.window w).watch = true ∧ (s.window w).written = false then peer else none := by
    unfold State.changeDue
    refine if_congr ?_ rfl rfl
    rw [Bool.and_eq_true, Bool.not_eq_true']
  refine ⟨_, rfl, ?_, ?_⟩
  · unfold State.applyUpdate
    rw [hdue]
    cases peer with
    | none =>
      rw [ite_self]
      exact Reports.nil rfl rfl
    | some sender =>
      by_cases hset : (s.window w).watch = true ∧ (s.window w).written = false
      · simp only [if_pos hset]
        exact (event_reports ((s.writeStore block first words).setWritten w) _ _).from_eq rfl rfl
      · simp only [if_neg hset]
        exact Reports.nil rfl rfl
  · unfold State.applyUpdate
    cases s.changeDue peer w with
    | none => rfl
    | some sender => exact event_side _ _ _

/-- Settles O9: each kind of claim at the head, and the grants that find no claim of their kind there. -/
theorem frameClaimsWriteTheStore : Obligations.FrameClaimsWriteTheStore := by
  refine ⟨fun s peer w block first words rest hq hlt hlen hwf => ?_, fun s w block words rest hq hlt hlen hwf => ?_,
    fun s => ?_⟩
  · obtain ⟨t, ht, hreports, heq⟩ := applyUpdate_eq { s with frameClaims := rest } peer w block first words
    have hreads := writeStore_reads hwf block first words
    have hwritten := setWritten_windows s w
    have hexec := exec_updateApplied hq hlt
    rw [ht] at hexec
    have hstore : t.store = (s.writeStore block first words).store := by rw [heq]; rfl
    have hwindow : ∀ v, t.window v = (s.setWritten w).window v := window_congr _ (by rw [heq]; rfl)
    refine ⟨t, hexec, ?_, ?_, (hwindow w).trans hwritten.1, fun v hv => (hwindow v).trans (hwritten.2 v hv),
      hreports.from_eq rfl rfl, ?_⟩
    · rw [hstore]
      exact hreads.1
    · rw [hstore]
      exact hreads.2
    · rw [heq]
  · have hreads := writeStore_reads hwf block 0 words
    have hwritten := setWritten_windows (State.writeStore { s with frameClaims := rest } block 0 words) w
    simp only [hlen, Nat.zero_add, Nat.zero_mul, Nat.add_zero] at hreads
    exact ⟨_, exec_copiedBlockWritten hq hlt, hreads.1, hreads.2, hwritten.1, hwritten.2, rfl⟩
  · cases hq : s.frameClaims with
    | nil => exact ⟨by rw [exec, execUpdateApplied, hq], by rw [exec, execCopiedBlockWritten, hq]⟩
    | cons c rest =>
      cases c with
      | update => exact show execCopiedBlockWritten s = _ by rw [execCopiedBlockWritten, hq]
      | copied => exact show execUpdateApplied s = _ by rw [execUpdateApplied, hq]

end Sys2Proof.Proofs

/-! CONFIGURE (R83, R166): the copy of the staging area, the checks of a staged profile in their order (R3, R58), and the
installation of one that passes them (R4, R57). -/

namespace Sys2Proof.Proofs

-- One proof at a time: every further thread of the elaborator counts against the memory limit.
set_option Elab.async false

open Sys2Proof Sys2Proof.Machine Sys2Proof.Laws

variable {s t : State} {w : WindowNo}

/-! ## The checks of a staged profile -/

/-- A chain of failures goes on into what follows it. -/
theorem ite_map_or {α β : Type} {P : Prop} [Decidable P] {x : α} {rest : Option α} {f : α → β} {z : Option β} :
    ((if P then some x else rest).map f).or z = if P then some (f x) else (rest.map f).or z := by
  split <;> rfl

theorem held_iff {r : RawWindow} (h : r.accessCode ≤ 2) : r.held = true ↔ r.accessCode ≠ 0 := by
  simp only [RawWindow.held, Bool.or_eq_true, decide_eq_true_eq]
  omega

/-- Check 6 of R3, behind entries that passed check 2. -/
theorem overlaps_iff {before : List RawWindow} {r : RawWindow} (hbefore : ∀ q ∈ before, q.accessCode ≤ 2) :
    (before.any fun q => q.held && r.overlaps q) = true ↔
      ¬ ∀ q ∈ before, q.accessCode ≠ 0 → r.base + r.count ≤ q.base ∨ q.base + q.count ≤ r.base := by
  rw [List.any_eq_true]
  constructor
  · rintro ⟨q, hq, hover⟩ hall
    rw [Bool.and_eq_true, held_iff (hbefore q hq)] at hover
    have hpass := hall q hq hover.1
    have hshare := hover.2
    simp only [RawWindow.overlaps, Bool.and_eq_true, decide_eq_true_eq] at hshare
    omega
  · intro hnot
    by_contra hnone
    refine hnot fun q hq h0 => ?_
    by_contra hshare
    refine hnone ⟨q, hq, ?_⟩
    rw [Bool.and_eq_true, held_iff (hbefore q hq)]
    refine ⟨h0, ?_⟩
    simp only [RawWindow.overlaps, Bool.and_eq_true, decide_eq_true_eq]
    omega

/-- The model's checks of one entry are those of R3, in their order. -/
theorem windowFailure_eq {w : Nat} {before : List RawWindow} {r : RawWindow}
    {checks : List (Bool × ProfileErrorKind × Nat)} {z : Option (ProfileErrorKind × Nat)}
    (hbefore : ∀ q ∈ before, q.accessCode ≤ 2)
    (hz : r.accessCode ≤ 2 → z = (checks.find? fun c => !c.1).map Prod.snd) :
    ((r.failure before).map fun kind => (kind, w)).or z =
      ((windowChecks w before r ++ checks).find? fun c => !c.1).map Prod.snd := by
  unfold RawWindow.failure windowChecks
  simp only [ite_map_or]
  refine ite_eq_firstFalse (by simp) fun _ => ite_eq_firstFalse (by simp) fun hcode =>
    ite_eq_firstFalse (by simp [or_iff_not_imp_left]) fun _ => ?_
  by_cases h0 : r.accessCode = 0
  · rw [if_pos h0]
    refine (hz (by omega)).trans ?_
    change _ = ((_ :: _ :: _ :: checks).find? fun c => !c.1).map Prod.snd
    rw [firstFalse_cons, if_pos (by simp [h0]), firstFalse_cons, if_pos (by simp [h0]), firstFalse_cons,
      if_pos (by simp [h0])]
  · rw [if_neg h0]
    simp only [ite_map_or]
    refine ite_eq_firstFalse ?_ fun _ => ite_eq_firstFalse (by simp [h0]) fun _ => ite_eq_firstFalse ?_ fun _ =>
      hz (not_not.1 hcode)
    · simp only [decide_eq_true_eq]
      omega
    · rw [overlaps_iff hbefore, not_not, decide_eq_true_eq]
      exact ⟨fun h => h h0, fun h _ => h⟩

theorem windowsFailure_eq : ∀ (l : List RawWindow) (before : List RawWindow) (w : Nat),
    (∀ q ∈ before, q.accessCode ≤ 2) →
    windowsFailure before w l = ((allWindowChecks w before l).find? fun c => !c.1).map Prod.snd
  | [], _, _, _ => rfl
  | r :: rest, before, w, hbefore => by
    rw [allWindowChecks, ← windowFailure_eq hbefore fun hr => windowsFailure_eq rest (before ++ [r]) (w + 1) fun q hq =>
      (List.mem_append.1 hq).elim (hbefore q) fun h => List.mem_singleton.1 h ▸ hr, windowsFailure]
    cases r.failure before <;> rfl

theorem contains_station {p : RawProfile} (h : p.station ≤ 63) :
    p.allotment.contains (BitVec.ofNat 8 p.station) = true ↔ ∃ owner ∈ p.allotment, owner.toNat = p.station := by
  have hval : (BitVec.ofNat 8 p.station).toNat = p.station := by
    rw [BitVec.toNat_ofNat]
    omega
  rw [List.contains_iff_mem]
  constructor
  · exact fun h => ⟨_, h, hval⟩
  · rintro ⟨owner, hmem, heq⟩
    rwa [← heq, BitVec.ofNat_toNat, BitVec.setWidth_eq]

/-- The model's checks of a profile are those of R166, in their order. -/
theorem profileFailure_eq (p : RawProfile) : p.failure = firstFailure (profileChecks p) := by
  have hgeometry : p.failure = (p.geometryFailure.map fun n => (ProfileErrorKind.badGeometry, n)).or
      (if ¬ p.station ≤ 63 then some (.tooManyStations, p.station)
      else if ¬ p.allotment.contains (BitVec.ofNat 8 p.station) then some (.notAllotted, p.station)
      else if ¬ p.copyShare ≤ 16 then some (.badTimer, 1)
      else if ¬ (2 ≤ p.catchUpWait ∧ p.catchUpWait ≤ 16) then some (.badTimer, 2)
      else if ¬ (2 ≤ p.copyStall ∧ p.copyStall ≤ 16) then some (.badTimer, 3)
      else if ¬ (1 ≤ p.attemptLimit ∧ p.attemptLimit ≤ 7) then some (.badTimer, 4)
      else if ¬ (1 ≤ p.silenceLimit ∧ p.silenceLimit ≤ 8) then some (.badTimer, 5)
      else windowsFailure [] 0 p.windows) := by
    unfold RawProfile.failure
    cases p.geometryFailure <;> rfl
  rw [hgeometry]
  unfold RawProfile.geometryFailure firstFailure profileChecks
  simp only [ite_map_or, Option.map_none, Option.none_or]
  refine ite_eq_firstFalse (by simp) fun _ => ite_eq_firstFalse (by simp) fun _ => ite_eq_firstFalse (by simp) fun _ =>
    ite_eq_firstFalse (by simp) fun _ => ite_eq_firstFalse (by simp) fun _ => ite_eq_firstFalse (by simp) fun _ =>
    ite_eq_firstFalse (by simp) fun _ => ite_eq_firstFalse (by simp) fun hstation => ite_eq_firstFalse ?_ fun _ =>
    ite_eq_firstFalse (by simp) fun _ => ite_eq_firstFalse (by simp) fun _ => ite_eq_firstFalse (by simp) fun _ =>
    ite_eq_firstFalse (by simp) fun _ => ite_eq_firstFalse (by simp) fun _ =>
    windowsFailure_eq p.windows [] 0 fun _ h => nomatch h
  rw [not_not, contains_station (not_not.1 hstation), decide_eq_true_eq]

/-! ## The copy in flight -/

theorem read_filterFrom (bound : Nat) : ∀ {m : Memory} {lo : Nat} (a : Nat), Memory.wfFrom lo m = true →
    Memory.read (m.filter fun cell => cell.1 < bound) a = if a < bound then m.read a else 0
  | [], _, a, _ => by
    change (0 : Byte) = if a < bound then 0 else 0
    rw [ite_self]
  | (b, v) :: m, lo, a, h => by
    have ih := read_filterFrom bound a ((wfFrom_cons _ _ _ _).1 h).2.2
    by_cases hb : b < bound
    · rw [List.filter_cons_of_pos (by simpa using hb)]
      by_cases hab : a = b
      · subst hab
        simp [Memory.read, hb]
      · simpa [Memory.read, hab] using ih
    · rw [List.filter_cons_of_neg (by simpa using hb), ih]
      by_cases hab : a = b
      · subst hab
        rw [if_neg hb, if_neg hb]
      · simp [Memory.read, hab]

/-- The staging area reads as the region below the command record, and is empty above (R174). -/
theorem read_stagingArea {m : Memory} (h : m.wf = true) (a : Nat) :
    (stagingArea m).read a = if a < 0x200 then m.read a else 0 := read_filterFrom commandCodeAt a h

/-- Filling in the command record leaves the staging area (R174). -/
theorem fillCommand_staging {code : Nat} {operands : List Word} {tag : Word} (hwf : s.region.wf = true) {a : Nat}
    (ha : a < 0x200) : (s.fillCommand code operands tag).region.read a = s.region.read a := by
  have h1 := wf_writeWord commandCodeAt (BitVec.ofNat 32 code) hwf
  have h2 := wf_writeWords operandAt operands h1
  rw [State.fillCommand]
  dsimp only
  rw [read_writeWord _ _ _ h2, if_neg (by rw [commandTagAt]; omega), read_writeWords _ _ _ h1,
    if_neg (by rw [operandAt]; omega), read_writeWord _ _ _ hwf, if_neg (by rw [commandCodeAt]; omega)]

theorem takeConfigure_inFlight (h : s.station = .unconfigured ∨ s.station = .configured) :
    s.takeConfigure = { s with inFlight := some { tag := s.commandTag, staged := stagingArea s.region } } := by
  unfold State.takeConfigure
  rcases h with h | h <;> rw [h]

theorem takeConfigure_badState (h1 : s.station ≠ .unconfigured) (h2 : s.station ≠ .configured) :
    s.takeConfigure = s.complete .badState := by
  unfold State.takeConfigure
  split
  next h => exact (h1 h).elim
  next h => exact (h2 h).elim
  all_goals rfl

theorem exec_configureComplete {c : ConfigureInFlight} (h : s.inFlight = some c) :
    exec .configureComplete s = .next (s.configureDone c) := by
  change execConfigureComplete s = _
  rw [execConfigureComplete, h]

/-- Settles O14: the copy that CONFIGURE takes, and the first check that it fails. -/
theorem configureRefusesAnUnsoundProfile : Obligations.ConfigureRefusesAnUnsoundProfile := by
  refine ⟨fun s tag hwf hstation hflight => ?_, fun s c kind index hc hfail => ?_⟩
  · obtain ⟨m, hm, hexec, -⟩ := exec_pastGate (i := .configure tag) rfl runCommand_configure hwf hstation (.inl hflight)
    refine ⟨fun h => ?_, fun h1 h2 => ?_⟩
    · rw [takeConfigure_inFlight (s := { s with region := m }) h] at hexec
      have hwfm : m.wf = true := hm ▸ wf_fillCommand 1 [] tag hwf
      rw [← hm]
      refine ⟨_, hexec, ?_, fun a => (read_stagingArea hwfm a).trans (ite_congr rfl (fun ha => ?_) fun _ => rfl)⟩
      · exact (congrArg (Memory.readWord · commandTagAt) hm).trans (fillCommand_commandTag 1 [] tag hwf)
      · rw [hm, fillCommand_staging hwf ha]
    · rw [takeConfigure_badState (s := { s with region := m }) h1 h2] at hexec
      exact onlyCompletes_of rfl hwf hm hexec
  · rw [exec_configureComplete hc, State.configureDone]
    rw [profileFailure_eq, hfail]
    rfl

/-! ## The installation -/

/-- The entries of a profile that passed its checks have access codes up to 2 (R3). -/
theorem accessCode_of_passed : ∀ (l before : List RawWindow) (w : Nat), windowsFailure before w l = none →
    ∀ r ∈ l, r.accessCode ≤ 2
  | [], _, _, _ => fun _ hr => nomatch hr
  | r :: rest, before, w, h => by
    rw [windowsFailure] at h
    cases hr : r.failure before with
    | some kind => rw [hr] at h; cases h
    | none =>
      rw [hr] at h
      intro q hq
      rcases List.mem_cons.1 hq with rfl | hq
      · by_contra hcode
        unfold RawWindow.failure at hr
        rw [if_pos (show ¬ q.accessCode ≤ 2 from hcode)] at hr
        split at hr <;> cases hr
      · exact accessCode_of_passed rest _ _ h q hq

theorem install_eq {r : RawWindow} (h : r.accessCode ≤ 2) : r.install = installedRecord r := by
  rw [RawWindow.install, installedRecord]
  by_cases h0 : r.accessCode = 0
  · have hheld : r.held = false := by rw [← Bool.not_eq_true, held_iff h, not_not]; exact h0
    simp only [hheld, h0, if_true, Bool.false_eq_true, if_false]
  · have hheld : r.held = true := (held_iff h).2 h0
    simp only [hheld, h0, if_true, if_false]

theorem records_window {staged : Memory} (h : (readRawProfile staged).failure = none) (w : WindowNo) :
    (readRawProfile staged).records[w] = installedRecord (readRawWindow staged w.val) := by
  have hentry : (readRawProfile staged).windows[w.val]? = some (readRawWindow staged w.val) := by
    change ((List.range 32).map (readRawWindow staged))[w.val]? = _
    rw [List.getElem?_map, List.getElem?_range w.isLt]
    rfl
  have hcode := accessCode_of_passed _ _ _ (windowsFailure_of_failure_none h) _ (List.mem_of_getElem? hentry)
  rw [← install_eq hcode]
  simp [RawProfile.records, hentry]

/-- The changes of an installation are reported in window-number order (R24, R83). -/
theorem configureEvents_reports (s before : State) : Reports s (s.configureEvents before)
    ((allWindows.filter fun w => (before.window w).currency != (s.window w).currency).map fun w =>
      ⟨subjectOf w.val, s.clock.round,
        .windowState (before.window w).currency (s.window w).currency .configure (s.window w).attempts none⟩) := by
  have hfold : ∀ (l : List WindowNo) (t : State), t.clock.round = s.clock.round → Reports t
      (l.foldl (fun t w =>
        if (before.window w).currency = (s.window w).currency then t
        else t.event (subjectOf w.val)
          (.windowState (before.window w).currency (s.window w).currency .configure (s.window w).attempts none)) t)
      ((l.filter fun w => (before.window w).currency != (s.window w).currency).map fun w =>
        ⟨subjectOf w.val, s.clock.round,
          .windowState (before.window w).currency (s.window w).currency .configure (s.window w).attempts none⟩) := by
    intro l
    induction l with
    | nil => exact fun t _ => Reports.refl t
    | cons w l ih =>
      intro t hround
      rw [List.foldl_cons]
      by_cases hsame : (before.window w).currency = (s.window w).currency
      · rw [if_pos hsame, List.filter_cons_of_neg (by simpa using hsame)]
        exact ih t hround
      · rw [if_neg hsame, List.filter_cons_of_pos (by simpa using hsame), List.map_cons, ← hround]
        have htail := ih (t.event (subjectOf w.val)
          (.windowState (before.window w).currency (s.window w).currency .configure (s.window w).attempts none)) hround
        rw [← hround] at htail
        exact (event_reports t _ _).trans htail
  exact hfold allWindows s rfl

/-- From UNCONFIGURED the change of station state is reported; from CONFIGURED there is none (R83). -/
theorem nowConfigured_eq (h : s.station = .unconfigured ∨ s.station = .configured) :
    Reports s s.nowConfigured (if s.station = .unconfigured then
        [⟨s.ownSubject, s.clock.round, .stationState .unconfigured .configured .configure 0⟩]
      else []) ∧
    s.nowConfigured = { s with station := .configured, events := s.nowConfigured.events,
                               eventOverflow := s.nowConfigured.eventOverflow } := by
  unfold State.nowConfigured
  by_cases hu : s.station = .unconfigured
  · rw [if_pos hu, if_pos hu, ← hu]
    exact ⟨enter_reports s _ _ _, rfl⟩
  · rw [if_neg hu, if_neg hu]
    refine ⟨Reports.refl s, ?_⟩
    rw [← h.resolve_left hu]

theorem digestInput_eq (p : RawProfile) : p.digestInput =
    [byteOf p.slots] ++ halfOf p.slotLength ++ halfOf p.settle ++ halfOf p.drain ++ p.allotment ++
      (p.windows.map fun r => halfOf r.globalLength).flatten := by
  simp only [halfOf_eq]
  rfl

theorem nowConfigured_windows (s : State) : s.nowConfigured.windows = s.windows := by
  unfold State.nowConfigured
  split <;> rfl

theorem nowConfigured_station (h : s.station = .unconfigured ∨ s.station = .configured) : s.nowConfigured.station = .configured :=
  congrArg State.station (nowConfigured_eq h).2

/-- A profile that passed its checks names a station up to 63 (R58). -/
theorem station_le_of_passed {p : RawProfile} (h : p.failure = none) : p.station ≤ 63 := by
  by_contra hstation
  unfold RawProfile.failure at h
  split at h
  next => cases h
  next => rw [if_pos hstation] at h; cases h

theorem installedRecord_attempts (r : RawWindow) : (installedRecord r).attempts = 0 := rfl

/-- The installation with the change of station state and the events behind it (R83). -/
theorem installed_eq (raw : RawProfile) (h : s.station = .unconfigured ∨ s.station = .configured) :
    (s.installProfile raw).nowConfigured.configureEvents s =
      { s with
        profile := some raw.install, windows := raw.records, station := .configured, inFlight := none, resync := []
        catchUp := none, serving := [], turn := none
        events := ((s.installProfile raw).nowConfigured.configureEvents s).events
        eventOverflow := ((s.installProfile raw).nowConfigured.configureEvents s).eventOverflow } := by
  have hside := configureEvents_side (s.installProfile raw).nowConfigured s
  have hframe := (nowConfigured_eq (s := s.installProfile raw) h).2
  generalize (s.installProfile raw).nowConfigured = u at *
  rw [hside, hframe]
  rfl

/-- Settles O15: the installation, its events in their order, and its completion. -/
theorem configureInstallsTheProfile : Obligations.ConfigureInstallsTheProfile := by
  intro s c raw hc hraw hpass hstation
  rw [← profileFailure_eq] at hpass
  have hframe := installed_eq raw hstation
  have hreports := (nowConfigured_eq (s := s.installProfile raw) hstation).1.trans
    (configureEvents_reports (s.installProfile raw).nowConfigured s)
  have hdone : s.configureDone c = ((s.installProfile raw).nowConfigured.configureEvents s).completeAs 1 c.tag .done
      (resultOfWords [BitVec.setWidth 32 raw.digest]) := by
    subst hraw
    rw [State.configureDone, hpass]
  have hround : (s.installProfile raw).nowConfigured.clock.round = s.clock.round := by
    rw [(nowConfigured_eq (s := s.installProfile raw) hstation).2]
    rfl
  have hwindow : ∀ w : WindowNo,
      (s.installProfile raw).nowConfigured.window w = installedRecord (readRawWindow c.staged w.val) := by
    subst hraw
    exact fun w => (window_congr _ (nowConfigured_windows _) w).trans (records_window hpass w)
  simp only [hwindow, hround, installedRecord_attempts] at hreports
  rw [exec_configureComplete hc, hdone]
  generalize hresult : resultOfWords [BitVec.setWidth 32 raw.digest] = result
  generalize (s.installProfile raw).nowConfigured.configureEvents s = t at *
  have hinstalled : ∀ w : WindowNo, t.window w = installedRecord (readRawWindow c.staged w.val) := by
    rw [hframe]
    subst hraw
    exact records_window hpass
  have hval : raw.install.station.toNat = raw.station := by
    have := station_le_of_passed hpass
    change (BitVec.ofNat 8 raw.station).toNat = _
    rw [BitVec.toNat_ofNat]
    omega
  refine ⟨raw.install, t.completeAs 1 c.tag .done result, rfl, ?_, ⟨hval, rfl, rfl, rfl, rfl, rfl, rfl, rfl, rfl, rfl, rfl, rfl⟩, ?_, hinstalled, ?_, ?_, ?_, ?_⟩
  · rw [hframe]
    rfl
  · rw [RawProfile.install]
    simp only [RawProfile.digest, digestInput_eq]
  · rw [hframe]
    rfl
  · have hsubject : t.ownSubject = (s.installProfile raw).ownSubject := by
      rw [hframe]
      rfl
    have hafter : ∀ w : WindowNo,
        (t.completeAs 1 c.tag .done result).window w =
          installedRecord (readRawWindow c.staged w.val) := hinstalled
    have hown : (t.completeAs 1 c.tag .done result).ownSubject =
        (s.installProfile raw).ownSubject := hsubject
    simp only [hafter, hown]
    have hfrom : Reports s t _ := hreports.from_eq (u := s) rfl rfl
    exact hfrom.of_eq (u := t.completeAs 1 c.tag .done result) rfl rfl
  · rw [hframe, RawProfile.install, hresult]
    rfl
  · rw [hframe]
    rfl

end Sys2Proof.Proofs

/-! LEAVE in ACTIVE (R93, R35, R156), and the commands that change a window's currency, DECLARE and RESYNC (R37, R38). -/

namespace Sys2Proof.Proofs

-- One proof at a time: every further thread of the elaborator counts against the memory limit.
set_option Elab.async false

open Sys2Proof Sys2Proof.Machine Sys2Proof.Laws

variable {s t u : State} {w : WindowNo}

/-! ## LEAVE in ACTIVE -/

/-- The Control Queue behind the dropping of the catch-up record (R93): the CREQ unqueued, or a CCAN to the donor queued. -/
def leaveControl (s : State) : List FrameBody :=
  match s.catchUp with
  | none => s.control
  | some { window := w, attempt := n, phase := .requested _, .. } => s.control.erase ((s.window w).creq w n)
  | some { window := w, phase := .copying donor _ _, .. } => queued s.control (.ccan donor w)

/-- The event of the dropping of the catch-up record (R35). -/
def leaveEvents (s : State) : List Event :=
  match s.catchUp with
  | none => []
  | some c => [⟨subjectOf c.window.val, s.clock.round,
      .windowState (s.window c.window).currency .stale .leave (s.window c.window).attempts none⟩]

theorem dropForLeave_none (hc : s.catchUp = none) : s.dropForLeave = s := by
  unfold State.dropForLeave
  rw [hc]

/-- Out of ACTIVE the dropped record's window goes STALE without a word to the joiners (R35, R93). -/
theorem dropForLeave_some {c : CatchUp} (hs : s.station ≠ .active) (hc : s.catchUp = some c) :
    s.dropForLeave = changed { s with catchUp := none, control := leaveControl s } c.window .stale
      (s.window c.window).attempts .leave none := by
  obtain ⟨w, n, phase, cancelled⟩ := c
  have hplain (control : List FrameBody) := changeCurrency_plain (s := { s with catchUp := none, control := control }) w .stale
    (s.window w).attempts .leave none (.inr (.inr hs))
  unfold State.dropForLeave leaveControl
  rw [hc]
  cases phase <;> exact hplain _

/-- What LEAVE makes of the catch-up record and its window, but for the cold marks, which all go behind it (R33). -/
theorem dropForLeave_dropped (hs : s.station ≠ .active) :
    (∀ w, { s.dropForLeave.window w with coldMark := none } = { s.window w with
      coldMark := none
      currency := if s.catchUp.map CatchUp.window = some w then .stale else (s.window w).currency }) ∧
    Reports s s.dropForLeave (leaveEvents s) ∧
    s.dropForLeave = { s with
      catchUp := none, control := leaveControl s, windows := s.dropForLeave.windows
      events := s.dropForLeave.events, eventOverflow := s.dropForLeave.eventOverflow } := by
  cases hc : s.catchUp with
  | none =>
    have hevents : leaveEvents s = [] := by unfold leaveEvents; rw [hc]
    have hcontrol : leaveControl s = s.control := by unfold leaveControl; rw [hc]
    rw [dropForLeave_none hc, hevents, hcontrol, ← hc]
    exact ⟨fun w => by simp [hc], Reports.refl s, rfl⟩
  | some c =>
    have hevents : leaveEvents s = [⟨subjectOf c.window.val, s.clock.round,
        .windowState (s.window c.window).currency .stale .leave (s.window c.window).attempts none⟩] := by
      unfold leaveEvents; rw [hc]
    rw [dropForLeave_some hs hc, hevents]
    refine ⟨fun w => ?_, (changed_reports _ _ _ _ _ _).from_eq rfl rfl, rfl⟩
    rw [changed_window]
    by_cases hw : c.window = w
    · subst hw
      simp only [Option.map_some, reduceIte]
      rfl
    · rw [if_neg hw, if_neg (by simpa using hw)]
      rfl

/-- What LEAVE in ACTIVE does, as a whole (R93). -/
theorem enterLeaving_left (s : State) :
    (∀ w, s.enterLeaving.window w = { s.window w with
      coldMark := none
      currency := if s.catchUp.map CatchUp.window = some w then .stale else (s.window w).currency }) ∧
    s.enterLeaving.control = afterLeave (leaveControl s) s.serving ∧
    ((∃ r ∈ s.serving, s.copyRead = some r.pair) →
      s.enterLeaving.copyRead = none ∧ s.enterLeaving.filler = s.filler.map Filling.stopCopy) ∧
    ((∀ r ∈ s.serving, s.copyRead ≠ some r.pair) →
      s.enterLeaving.copyRead = s.copyRead ∧ s.enterLeaving.filler = s.filler) ∧
    Reports s s.enterLeaving (⟨s.ownSubject, s.clock.round, .stationState s.station .leaving .leave 0⟩ :: leaveEvents s) ∧
    s.enterLeaving = { s with
      station := .leaving, windows := s.enterLeaving.windows, catchUp := none, resync := [], serving := [], turn := none
      control := s.enterLeaving.control, copyRead := s.enterLeaving.copyRead, filler := s.enterLeaving.filler
      events := s.enterLeaving.events, eventOverflow := s.enterLeaving.eventOverflow } := by
  have hentered := enter_reports s .leaving .leave 0
  have hstation : (s.enter .leaving .leave 0).station ≠ .active := by rw [enter_station]; decide
  have hframe : s.enter .leaving .leave 0 = { s with
      station := .leaving, events := (s.enter .leaving .leave 0).events
      eventOverflow := (s.enter .leaving .leave 0).eventOverflow } := rfl
  unfold State.enterLeaving
  dsimp only
  generalize s.enter .leaving .leave 0 = u at *
  obtain ⟨hwindow, hdropped, hleft⟩ := dropForLeave_dropped hstation
  generalize u.dropForLeave = v at *
  have hside := abortAllServing_side { v with resync := [] }
  obtain ⟨hserving, hturn, hcontrol, hstays, hgoes⟩ := abortAllServing_ended { v with resync := [] }
  generalize State.abortAllServing { v with resync := [] } = x at *
  have hwindowOf : ∀ w, u.window w = s.window w := window_congr _ (by rw [hframe])
  have hcatchUp : u.catchUp = s.catchUp := by rw [hframe]
  have hcontrolOf : u.control = s.control := by rw [hframe]
  have hround : u.clock.round = s.clock.round := by rw [hframe]
  have hfirst : leaveControl u = leaveControl s := by
    unfold leaveControl
    simp only [hwindowOf, hcatchUp, hcontrolOf]
  have hevents : leaveEvents u = leaveEvents s := by
    unfold leaveEvents
    simp only [hwindowOf, hcatchUp, hround]
  have hv : v = { s with
      station := .leaving, catchUp := none, control := leaveControl s, windows := v.windows, events := v.events
      eventOverflow := v.eventOverflow } := by
    rw [hleft, hfirst, hframe]
  have hvserving : v.serving = s.serving := by rw [hv]
  have hvread : v.copyRead = s.copyRead := by rw [hv]
  have hvfiller : v.filler = s.filler := by rw [hv]
  have hvcontrol : v.control = leaveControl s := by rw [hv]
  dsimp only at hcontrol hgoes hstays
  rw [hvserving, hvread, hvfiller] at hgoes hstays
  rw [hvcontrol, hvserving] at hcontrol
  have hx : x = { s with
      station := .leaving, catchUp := none, resync := [], serving := [], turn := none, windows := v.windows
      control := x.control, copyRead := x.copyRead, filler := x.filler, events := v.events
      eventOverflow := v.eventOverflow } := by
    rw [hside, hserving, hturn, hv]
  have hwindowAt (w : WindowNo) := mapWindows_window (s := x) (fun r => { r with coldMark := none }) w
  have hmapped : x.mapWindows (fun r => { r with coldMark := none }) =
      { x with windows := (x.mapWindows fun r => { r with coldMark := none }).windows } := rfl
  generalize x.mapWindows (fun r => { r with coldMark := none }) = y at *
  rw [hmapped]
  refine ⟨fun w => ?_, hcontrol, hgoes, hstays, ?_, ?_⟩
  · rw [← hwindowOf, ← hcatchUp, ← hwindow w, ← window_congr (s := v) (t := x) (by rw [hx]) w, ← hwindowAt]
    exact window_congr (s := y) rfl w
  · rw [← hevents]
    exact (hentered.trans hdropped).of_eq (by rw [hx]) (by rw [hx])
  · rw [hx]

theorem takeLeave_active (h : s.station = .active) : s.takeLeave = s.enterLeaving.complete .done := by
  unfold State.takeLeave
  rw [h]

/-- Settles O17: the state change, the catch-up record, the serving records and the cold marks, one behind the other. -/
theorem leaveInActiveStopsCatchUp : Obligations.LeaveInActiveStopsCatchUp := by
  intro s tag hwf hactive hflight
  obtain ⟨region, hregion, hexec, -⟩ :=
    exec_pastGate (i := .leave tag) rfl runCommand_leave hwf (by rw [hactive]; decide) (.inl hflight)
  rw [takeLeave_active (s := { s with region := region }) hactive] at hexec
  obtain ⟨hwindow, hcontrol, hgoes, hstays, hreports, hframe⟩ := enterLeaving_left { s with region := region }
  generalize State.enterLeaving { s with region := region } = t at *
  have hkept : t.region = region := by rw [hframe]
  have hcount : t.completion = s.completion := by rw [hframe]
  refine ⟨t.complete .done, completes_of rfl hwf hexec (hkept.trans hregion) hcount, hwindow, ?_,
    fun r hr hread => hgoes ⟨r, hr, hread⟩, hstays, ?_, ?_⟩
  · exact hcontrol
  · rw [← hactive]
    exact (hreports.of_eq rfl rfl).from_eq rfl rfl
  · rw [hframe]
    rfl

end Sys2Proof.Proofs

/-! What every row keeps of a sound station: its parts agree with each other (the first five parts of `Sound`), shown of each
operation on windows, the catch-up units, the Roster and the accounts. -/

namespace Sys2Proof.Proofs

-- One proof at a time: every further thread of the elaborator counts against the memory limit.
set_option Elab.async false

open Sys2Proof Sys2Proof.Machine Sys2Proof.Laws

variable {s t u : State} {w : WindowNo}

/-! ## The agreement of the parts -/

/-- A sound station but for the test of R129: the clock, the queues, the profile, the windows and the serving list agree with
the station state and with each other. -/
structure Agrees (s : State) : Prop where
  clock : s.ClockAgrees
  quiet : s.QuietOffLine
  profile : s.ProfileAgrees
  windows : s.WindowsAgree
  serving : s.ServingAgrees

theorem agrees_of_sound (h : s.Sound) : Agrees s := ⟨h.clock, h.quiet, h.profile, h.windows, h.serving⟩

theorem Agrees.sound (h : Agrees s) (hsettled : s.nextTried = none) : s.Sound :=
  ⟨h.clock, h.quiet, h.profile, h.windows, h.serving, hsettled⟩

/-- What `WindowsAgree` says of one window record: of a station in this state with this attempt limit, whose window is tried
or listed or neither. -/
structure Fits (station : StationState) (limit : Nat) (tried listed : Prop) (r : WindowRecord) : Prop where
  held : r.holding = none ↔ r.currency = .unheld
  catchingUp : r.currency = .catchingUp ↔ tried
  listed : station = .active → (listed ↔ r.currency = .stale)
  offLine : station.takesPart = false → r.currency = .unheld ∨ (r.currency = .stale ∧ r.attempts = 0)
  attempts : match r.currency with
    | .unheld | .current => r.attempts = 0
    | .stale | .catchingUp => r.attempts < limit
    | .stranded => r.attempts = limit
  marks : ∀ n, r.coldMark = some n → station = .active ∧ r.currency = .current ∧ 1 ≤ n ∧ n ≤ 4

/-- The window is that of the attempt in progress. -/
def State.tries (s : State) (w : WindowNo) : Prop := ∃ c, s.catchUp = some c ∧ c.window = w

theorem windowsAgree_iff : s.WindowsAgree ↔
    (∀ w, Fits s.station s.attemptLimit (State.tries s w) (w ∈ s.resync) (s.window w)) ∧ s.resync.Nodup :=
  ⟨fun h => ⟨fun w => ⟨h.held w, h.catchingUp w, fun ha => h.listed ha w, fun ho => h.offLine ho w, h.attempts w,
      h.marks w⟩, h.listedOnce⟩,
    fun ⟨h, hn⟩ => ⟨fun w => (h w).held, fun w => (h w).catchingUp, fun ha w => (h w).listed ha, hn,
      fun ho w => (h w).offLine ho, fun w => (h w).attempts, fun w => (h w).marks⟩⟩

theorem Fits.of_iff {station : StationState} {limit : Nat} {tried listed tried' listed' : Prop} {r : WindowRecord}
    (h : Fits station limit tried listed r) (ht : tried' ↔ tried) (hl : station = .active → (listed' ↔ listed)) :
    Fits station limit tried' listed' r :=
  ⟨h.held, h.catchingUp.trans ht.symm, fun ha => (hl ha).trans (h.listed ha), h.offLine, h.attempts, h.marks⟩

theorem tries_none (h : s.catchUp = none) (w : WindowNo) : ¬ State.tries s w := by
  rintro ⟨c, hc, -⟩
  rw [h] at hc
  cases hc

theorem tries_some {c : CatchUp} (h : s.catchUp = some c) (w : WindowNo) : State.tries s w ↔ c.window = w := by
  constructor
  · rintro ⟨d, hd, hw⟩
    rw [h] at hd
    cases hd
    exact hw
  · exact fun hw => ⟨c, h, hw⟩

theorem takesPart_of_active (h : s.station = .active) : s.station.takesPart = true := by rw [h]; rfl

/-- What losses rest on is part of what agrees. -/
theorem Agrees.lossReady (h : Agrees s) : LossReady s where
  pairs := h.serving.pairs
  current := h.serving.current
  catchingUp := h.windows.catchingUp
  listed w hw := by
    by_cases ha : s.station = .active
    · exact (h.windows.listed ha w).1 hw
    · rw [h.quiet.resync ha] at hw
      cases hw
  active ha := ⟨h.quiet.serving ha, h.quiet.catchUp ha⟩

/-- An attempt is in progress in ACTIVE alone. -/
theorem Agrees.active_of_catchUp (h : Agrees s) {c : CatchUp} (hc : s.catchUp = some c) : s.station = .active := by
  by_contra ha
  rw [h.quiet.catchUp ha] at hc
  cases hc

/-- Records that went leave a serving list that agrees, where those left are of CURRENT windows. -/
theorem servingAgrees_gone {ended : ServingRecord → Bool} (h : s.ServingAgrees) (hg : RecordsGone ended s t)
    (hcur : ∀ r ∈ s.serving, ended r = false → (t.window r.window).currency = .current) : t.ServingAgrees := by
  refine ⟨?_, fun pair hturn => ?_, fun r hr => ?_⟩
  · rw [hg.serving]
    exact h.pairs.sublist (List.filter_sublist.map _)
  · rw [hg.serving]
    cases hs : s.turn with
    | none =>
      rw [hg.turnStays fun r _ ht => absurd (hs.symm.trans ht) (by simp), hs] at hturn
      cases hturn
    | some own =>
      obtain ⟨r, hr, hpair⟩ := h.turn own hs
      by_cases he : ended r = true
      · obtain ⟨before, after, hsplit⟩ := List.append_of_mem hr
        rw [hg.turnMoves before r after hsplit (by rw [hs, hpair]) he, Option.map_eq_some_iff] at hturn
        obtain ⟨q, hq, hqpair⟩ := hturn
        have hmem := List.mem_of_getLast? hq
        refine ⟨q, List.mem_filter.2 ⟨?_, (List.mem_filter.1 hmem).2⟩, hqpair⟩
        rw [hsplit]
        exact List.mem_append_left _ (List.mem_filter.1 hmem).1
      · have hown : ∀ q ∈ s.serving, s.turn = some q.pair → ended q = false := fun q hq ht => by
          rw [hs, ← hpair] at ht
          rw [List.inj_on_of_nodup_map h.pairs hq hr (Option.some.inj ht).symm]
          simpa using he
        have hstays := hg.turnStays hown
        rw [hstays, hs] at hturn
        exact ⟨r, List.mem_filter.2 ⟨hr, by simpa using he⟩, hpair.trans (Option.some.inj hturn)⟩
  · rw [hg.serving, List.mem_filter] at hr
    exact hcur r hr.1 (by simpa using hr.2)

/-- Which parts of the clock and the receiver agree with the station state. -/
theorem clockAgrees_congr (h : s.ClockAgrees) (hstation : t.station = s.station)
    (hposition : t.clock.position.isSome = s.clock.position.isSome) (hquiet : t.clock.quiet.isSome = s.clock.quiet.isSome)
    (hjoin : t.clock.join.isSome = s.clock.join.isSome) (hstandoff : t.clock.standoff.isSome = s.clock.standoff.isSome)
    (hreceiver : t.receiver = .off ↔ s.receiver = .off) : t.ClockAgrees := by
  constructor <;> rw [hstation]
  · rw [hposition]; exact h.position
  · rw [hquiet]; exact h.quiet
  · rw [hjoin]; exact h.join
  · rw [hstandoff]; exact h.standoff
  · rw [hreceiver]; exact h.receiver

theorem profileAgrees_congr (h : s.ProfileAgrees) (hstation : t.station = s.station) (hprofile : t.profile = s.profile)
    (hinit : t.initPass = s.initPass) (hflight : t.inFlight = s.inFlight) : t.ProfileAgrees := by
  constructor
  · rw [hstation, hinit]; exact h.initPass
  · rw [hstation, hprofile]; exact h.installed
  · rw [hprofile]; exact h.limit
  · rw [hstation, hflight]; exact h.inFlight

theorem attemptLimit_congr (h : t.profile = s.profile) : t.attemptLimit = s.attemptLimit := by
  unfold State.attemptLimit
  rw [h]

theorem silenceLimit_congr (h : t.profile = s.profile) : t.silenceLimit = s.silenceLimit := by
  unfold State.silenceLimit
  rw [h]

theorem windowsAgree_congr (h : s.WindowsAgree) (hstation : t.station = s.station) (hprofile : t.profile = s.profile)
    (hwindows : t.windows = s.windows) (htries : ∀ w, State.tries t w ↔ State.tries s w) (hresync : t.resync = s.resync) :
    t.WindowsAgree := by
  have hw := window_congr (s := s) (t := t) hwindows
  rw [windowsAgree_iff] at h ⊢
  refine ⟨fun w => ?_, by rw [hresync]; exact h.2⟩
  rw [hstation, attemptLimit_congr hprofile, hw, hresync]
  exact (h.1 w).of_iff (htries w) fun _ => Iff.rfl

theorem servingAgrees_congr (h : s.ServingAgrees) (hserving : t.serving = s.serving) (hturn : t.turn = s.turn)
    (hwindows : t.windows = s.windows) : t.ServingAgrees := by
  have hw := window_congr (s := s) (t := t) hwindows
  constructor
  · rw [hserving]; exact h.pairs
  · rw [hserving, hturn]; exact h.turn
  · simp only [hserving, hw]; exact h.current

/-- A change on the catch-up side of a station whose parts agree leaves them so, where the windows and the serving list do. -/
theorem Agrees.catchUpSide (h : Agrees s) (hs : CatchUpSide s t)
    (hcontrol : s.station.takesPart = true ∨ t.control = s.control)
    (hactive : s.station = .active ∨ (t.resync = s.resync ∧ t.catchUp = s.catchUp ∧ t.serving = s.serving ∧ t.turn = s.turn))
    (hw : t.WindowsAgree) (hserving : t.ServingAgrees) : Agrees t := by
  have hstation := hs.station
  have hq := h.quiet
  have hoff (ha : s.station ≠ .active) := hactive.resolve_left ha
  refine ⟨?_, ?_, ?_, hw, hserving⟩
  · refine clockAgrees_congr h.clock hstation ?_ ?_ ?_ ?_ ?_ <;> rw [hs]
  · constructor <;> rw [hstation]
    · rw [hs]; exact hq.outbound
    · intro ho
      rw [hcontrol.resolve_left (by rw [ho]; decide)]
      exact hq.control ho
    · rw [hs]; exact hq.account
    · intro ha; rw [(hoff ha).1]; exact hq.resync ha
    · intro ha; rw [(hoff ha).2.1]; exact hq.catchUp ha
    · intro ha; rw [(hoff ha).2.2.1]; exact hq.serving ha
    · intro ha; rw [(hoff ha).2.2.2]; exact hq.turn ha
    · rw [hs]; exact hq.roster
  · refine profileAgrees_congr h.profile hstation ?_ ?_ ?_ <;> rw [hs]

/-- A change of what the parts do not rest on, or of it in a way that they do not see. -/
theorem Agrees.congr (h : Agrees s) (hstation : t.station = s.station := by rfl) (hprofile : t.profile = s.profile := by rfl)
    (hwindows : t.windows = s.windows := by rfl) (hinit : t.initPass = s.initPass := by rfl)
    (hflight : t.inFlight = s.inFlight := by rfl) (hresync : t.resync = s.resync := by rfl)
    (hserving : t.serving = s.serving := by rfl) (hturn : t.turn = s.turn := by rfl)
    (htries : ∀ w, State.tries t w ↔ State.tries s w := by exact fun _ => Iff.rfl)
    (hposition : t.clock.position.isSome = s.clock.position.isSome := by rfl)
    (hquiet : t.clock.quiet.isSome = s.clock.quiet.isSome := by rfl)
    (hjoin : t.clock.join.isSome = s.clock.join.isSome := by rfl)
    (hstandoff : t.clock.standoff.isSome = s.clock.standoff.isSome := by rfl)
    (hreceiver : t.receiver = .off ↔ s.receiver = .off := by exact Iff.rfl)
    (houtbound : s.station.takesPart = false → s.outbound = [] → t.outbound = [] := by exact fun _ h => h)
    (hcontrol : s.station.takesPart = false → s.control = [] → t.control = [] := by exact fun _ h => h)
    (haccount : s.station.takesPart = false → s.account = none → t.account = none := by exact fun _ h => h)
    (hroster : s.station.clockMode = .stopped → s.roster = [] → t.roster = [] := by exact fun _ h => h) : Agrees t where
  clock := clockAgrees_congr h.clock hstation hposition hquiet hjoin hstandoff hreceiver
  quiet := by
    have hq := h.quiet
    constructor <;> rw [hstation]
    · exact fun ho => houtbound ho (hq.outbound ho)
    · exact fun ho => hcontrol ho (hq.control ho)
    · exact fun ho => haccount ho (hq.account ho)
    · rw [hresync]; exact hq.resync
    · intro ha
      by_contra hne
      obtain ⟨c, hc⟩ := Option.ne_none_iff_exists'.1 hne
      exact tries_none (hq.catchUp ha) c.window ((htries _).1 ⟨c, hc, rfl⟩)
    · rw [hserving]; exact hq.serving
    · rw [hturn]; exact hq.turn
    · exact fun hs => hroster hs (hq.roster hs)
  profile := profileAgrees_congr h.profile hstation hprofile hinit hflight
  windows := windowsAgree_congr h.windows hstation hprofile hwindows htries hresync
  serving := servingAgrees_congr h.serving hserving hturn hwindows

/-- One window's record changes. -/
theorem windowsAgree_one (h : s.WindowsAgree) (hstation : t.station = s.station) (hlimit : t.attemptLimit = s.attemptLimit)
    (hown : Fits s.station s.attemptLimit (State.tries t w) (w ∈ t.resync) (t.window w))
    (hother : ∀ x, x ≠ w → t.window x = s.window x ∧ (State.tries t x ↔ State.tries s x) ∧ (x ∈ t.resync ↔ x ∈ s.resync))
    (hnodup : t.resync.Nodup) : t.WindowsAgree := by
  rw [windowsAgree_iff, hstation, hlimit]
  refine ⟨fun x => ?_, hnodup⟩
  by_cases hx : x = w
  · rw [hx]; exact hown
  · obtain ⟨hwindow, htries, hlisted⟩ := hother x hx
    rw [hwindow]
    exact ((windowsAgree_iff.1 h).1 x).of_iff htries fun _ => hlisted

theorem holding_ne_none (h : s.WindowsAgree) (hc : (s.window w).currency ≠ .unheld) : (s.window w).holding ≠ none :=
  fun hn => hc ((h.held w).1 hn)

theorem not_mem_resync (h : LossReady s) (hc : (s.window w).currency ≠ .stale) : w ∉ s.resync :=
  fun hl => hc (h.listed w hl)

theorem nodup_concat {l : List WindowNo} (h : l.Nodup) (hw : w ∉ l) : (l ++ [w]).Nodup :=
  List.nodup_append.2 ⟨h, List.nodup_singleton w, fun a ha b hb => by
    rintro rfl
    exact hw (List.mem_singleton.1 hb ▸ ha)⟩

/-- A record as a held window has it in ACTIVE or LEAVING without a cold mark: its currency decides the rest. -/
theorem fits_taking {station : StationState} {limit : Nat} {tried listed : Prop} {r : WindowRecord}
    (htakes : station.takesPart = true) (hheld : r.holding ≠ none)
    (hcurrency : r.currency ≠ .unheld) (hcatchingUp : r.currency = .catchingUp ↔ tried)
    (hlisted : station = .active → (listed ↔ r.currency = .stale))
    (hattempts : match r.currency with
      | .unheld | .current => r.attempts = 0
      | .stale | .catchingUp => r.attempts < limit
      | .stranded => r.attempts = limit)
    (hmark : r.coldMark = none) : Fits station limit tried listed r :=
  ⟨iff_of_false hheld hcurrency, hcatchingUp, hlisted, fun ho => absurd (htakes.symm.trans ho) (by decide), hattempts,
    fun n hn => by
      rw [hmark] at hn
      cases hn⟩

theorem fits_active {limit : Nat} {tried listed : Prop} {r : WindowRecord} (hheld : r.holding ≠ none)
    (hcurrency : r.currency ≠ .unheld) (hcatchingUp : r.currency = .catchingUp ↔ tried) (hlisted : listed ↔ r.currency = .stale)
    (hattempts : match r.currency with
      | .unheld | .current => r.attempts = 0
      | .stale | .catchingUp => r.attempts < limit
      | .stranded => r.attempts = limit)
    (hmark : r.coldMark = none) : Fits .active limit tried listed r :=
  fits_taking rfl hheld hcurrency hcatchingUp (fun _ => hlisted) hattempts hmark

/-! ## An attempt that fails, succeeds or begins -/

/-- A failed attempt leaves its window STALE at the tail of the list or STRANDED. -/
theorem attemptFailed_agrees {kind : FailureKind} (h : Agrees s) (hside : CatchUpSide s t) (hf : AttemptFailed kind s t) :
    Agrees t := by
  obtain ⟨c, hc, hnone, hown, hother, hresync, -, -, hframe⟩ := hf
  have hactive := h.active_of_catchUp hc
  have hcatching : (s.window c.window).currency = .catchingUp := (h.windows.catchingUp _).2 ⟨c, hc, rfl⟩
  have hunlisted : c.window ∉ s.resync := not_mem_resync h.lossReady (by rw [hcatching]; decide)
  have hholding := holding_ne_none (w := c.window) h.windows (by rw [hcatching]; decide)
  have hcount : (s.window c.window).attempts < s.attemptLimit := by
    have := h.windows.attempts c.window
    rwa [hcatching] at this
  have hserving : t.serving = s.serving := by rw [hframe]
  have hturn : t.turn = s.turn := by rw [hframe]
  have hwindows : t.WindowsAgree := by
    refine windowsAgree_one (w := c.window) h.windows hside.station hside.attemptLimit ?_ (fun x hx => ⟨hother x hx, ?_, ?_⟩) ?_
    · rw [hown, hactive, hresync]
      have hno := tries_none hnone c.window
      split
      next hbelow => exact fits_active hholding (by simp) (by simpa using hno) (by simp) hbelow rfl
      next hat =>
        refine fits_active hholding (by simp) (by simpa using hno) (by simpa using hunlisted) ?_ rfl
        change _ + 1 = s.attemptLimit
        omega
    · exact iff_of_false (tries_none hnone x) fun ht => hx ((tries_some hc x).1 ht).symm
    · rw [hresync]
      split <;> simp [hx]
    · rw [hresync]
      split
      · exact nodup_concat h.windows.listedOnce hunlisted
      · exact h.windows.listedOnce
  refine h.catchUpSide hside (.inl (takesPart_of_active hactive)) (.inl hactive) hwindows
    ⟨by rw [hserving]; exact h.serving.pairs, by rw [hserving, hturn]; exact h.serving.turn, fun r hr => ?_⟩
  rw [hserving] at hr
  have hcur := h.serving.current r hr
  rw [hother _ fun he => by rw [he, hcatching] at hcur; cases hcur]
  exact hcur

theorem failAttempt_none (kind : FailureKind) (hc : s.catchUp = none) : s.failAttempt kind = s := by
  unfold State.failAttempt
  rw [hc]

/-- The attempt that can fail does, in a station whose parts agree. -/
theorem Agrees.attemptFailed (h : Agrees s) (kind : FailureKind) {c : CatchUp} (hc : s.catchUp = some c) :
    AttemptFailed kind s (s.failAttempt kind) := by
  have hcatching : (s.window c.window).currency = .catchingUp := (h.windows.catchingUp _).2 ⟨c, hc, rfl⟩
  exact failAttempt_failed kind hc (by rw [hcatching]; decide) (not_mem_resync h.lossReady (by rw [hcatching]; decide))

theorem Agrees.failAttempt (h : Agrees s) (kind : FailureKind) : Agrees (s.failAttempt kind) := by
  cases hc : s.catchUp with
  | none => rw [failAttempt_none kind hc]; exact h
  | some c => exact attemptFailed_agrees h (failAttempt_side s kind) (h.attemptFailed kind hc)

/-- The window an attempt begins on has left the list for CATCHING_UP. -/
theorem Agrees.tryBegin (h : Agrees s) : Agrees s.tryBegin := by
  have htested := h.lossReady.tested
  have hside := tryBegin_side s
  generalize s.tryBegin = t at *
  unfold AttemptTested at htested
  split at htested
  · rw [htested]; exact h
  next w hw =>
    obtain ⟨hcatchUp, hresync, -, hwindows, -, hframe⟩ := htested
    have hfound : s.station = .active ∧ s.catchUp = none ∧ s.resync.find? s.advertised = some w := by
      unfold State.nextTried at hw
      split at hw
      next hc => exact ⟨hc.1, hc.2.1, hw⟩
      next => cases hw
    obtain ⟨hactive, hnone, hfind⟩ := hfound
    have hlisted := List.mem_of_find?_eq_some hfind
    have hstale := h.lossReady.listed w hlisted
    have hcount : (s.window w).attempts < s.attemptLimit := by
      have := h.windows.attempts w
      rwa [hstale] at this
    have hat : ∀ x, t.window x = if w = x then { s.window w with currency := .catchingUp, coldMark := none } else s.window x :=
      fun x => (window_congr (s := { s with windows := s.windows.set w _ }) hwindows x).trans (window_set s w x _)
    have hserving : t.serving = s.serving := by rw [hframe]
    have hturn : t.turn = s.turn := by rw [hframe]
    have hagrees : t.WindowsAgree := by
      refine windowsAgree_one (w := w) h.windows hside.station hside.attemptLimit ?_ (fun x hx => ⟨?_, ?_, ?_⟩) ?_
      · rw [hat, if_pos rfl, hactive, hresync]
        refine fits_active (holding_ne_none h.windows (by rw [hstale]; decide)) (by simp) ?_ ?_ hcount rfl
        · exact iff_of_true rfl ((tries_some hcatchUp w).2 rfl)
        · exact iff_of_false (fun hm => absurd hm (List.Nodup.not_mem_erase h.windows.listedOnce)) (by simp)
      · rw [hat, if_neg hx.symm]
      · rw [tries_some hcatchUp]
        exact iff_of_false hx.symm (tries_none hnone x)
      · rw [hresync, List.mem_erase_of_ne hx]
      · rw [hresync]; exact h.windows.listedOnce.erase w
    refine h.catchUpSide hside (.inl (takesPart_of_active hactive)) (.inl hactive) hagrees
      ⟨by rw [hserving]; exact h.serving.pairs, by rw [hserving, hturn]; exact h.serving.turn, fun r hr => ?_⟩
    rw [hserving] at hr
    have hcur := h.serving.current r hr
    rw [hat, if_neg fun he => by rw [← he, hstale] at hcur; cases hcur]
    exact hcur

/-! ## Losses -/

/-- A profile is in force from CONFIGURED on, and its attempt limit is at least 1 (R166). -/
theorem Agrees.limit_pos (h : Agrees s) (htakes : s.station.takesPart = true) : 0 < s.attemptLimit := by
  cases hp : s.profile with
  | none =>
    rcases h.profile.installed.1 hp with hs | hs <;> rw [hs] at htakes <;> cases htakes
  | some p =>
    have := h.profile.limit p hp
    unfold State.attemptLimit
    rw [hp]
    exact this

theorem Agrees.takesPart_of_current (h : Agrees s) (hc : (s.window w).currency = .current) : s.station.takesPart = true := by
  by_contra ho
  rcases h.windows.offLine (by simpa using ho) w with hw | hw
  · rw [hc] at hw; cases hw
  · rw [hc] at hw; cases hw.1

/-- Out of ACTIVE and LEAVING no window can lose anything. -/
theorem losses_idle (h : Agrees s) (ho : s.station.takesPart = false) (test : WindowNo → Bool) : s.losses test = s := by
  have hone : ∀ w, s.loss w = s := fun w => by
    rcases h.windows.offLine ho w with hw | hw
    · exact loss_none w (by rw [hw]; decide) (by rw [hw]; decide)
    · exact loss_none w (by rw [hw.1]; decide) (by rw [hw.1]; decide)
  unfold State.losses
  induction allWindows.filter test with
  | nil => rfl
  | cons w l ih => rw [List.foldl_cons, hone, ih]

theorem catchUp_any_false {test : WindowNo → Bool} (h : ∀ c, s.catchUp = some c → test c.window = false) :
    (s.catchUp.any fun c => test c.window) = false := by
  cases hc : s.catchUp with
  | none => rfl
  | some c => exact h c hc

/-- A loss takes its windows from CURRENT and CATCHING_UP to STALE or STRANDED. -/
theorem lossesTaken_agrees {test : WindowNo → Bool} (h : Agrees s) (htakes : s.station.takesPart = true)
    (hside : CatchUpSide s t) (hl : LossesTaken test s t) : Agrees t := by
  have hready := h.lossReady
  have htries : ∀ w, State.tries t w ↔ State.tries s w ∧ test w = false := fun w => by
    cases hc : s.catchUp with
    | none =>
      have hnone : t.catchUp = none := by rw [hl.record, hc]; rfl
      exact iff_of_false (tries_none hnone w) fun ht => tries_none hc w ht.1
    | some c =>
      rw [tries_some hc]
      by_cases htest : test c.window = true
      · have hnone : t.catchUp = none := by rw [hl.record, hc, Option.any_some, if_pos htest]
        refine iff_of_false (tries_none hnone w) fun ht => ?_
        rw [← ht.1, htest] at ht
        cases ht.2
      · have hsame : t.catchUp = some c := by rw [hl.record, hc, Option.any_some, if_neg htest]
        rw [tries_some hsame]
        refine ⟨fun hw => ⟨hw, ?_⟩, fun hw => hw.1⟩
        rw [← hw]
        simpa using htest
  have hlisted : ∀ w, s.station = .active → (w ∈ t.resync ↔ w ∈ s.resync ∨ (test w = true ∧ lossStales s w = true)) :=
    fun w ha => by
      rw [hl.listed, if_pos ha, List.mem_append, List.mem_filter, Bool.and_eq_true]
      exact or_congr_right (and_iff_right (List.mem_finRange w))
  have hwindow : ∀ w, Fits s.station s.attemptLimit (State.tries t w) (w ∈ t.resync) (t.window w) := fun w => by
    have hfits := (windowsAgree_iff.1 h.windows).1 w
    cases htest : test w with
    | false =>
      rw [hl.untouched w htest]
      refine hfits.of_iff ((htries w).trans (and_iff_left htest)) fun ha => ?_
      rw [hlisted w ha, htest]
      simp
    | true =>
      have hno : ¬ State.tries t w := fun ht => by
        have := ((htries w).1 ht).2
        rw [htest] at this
        cases this
      cases hc : (s.window w).currency with
      | current =>
        rw [hl.current w htest hc]
        refine fits_taking htakes (holding_ne_none h.windows (by rw [hc]; decide)) (by simp) (by simpa using hno)
          (fun ha => ?_) ?_ rfl
        · refine iff_of_true ((hlisted w ha).2 (.inr ⟨htest, ?_⟩)) rfl
          rw [lossStales, hc]
          rfl
        · have hcount := h.windows.attempts w
          rw [hc] at hcount
          change (s.window w).attempts < s.attemptLimit
          rw [hcount]
          exact h.limit_pos htakes
      | catchingUp =>
        have hstales : lossStales s w = decide ((s.window w).attempts + 1 < s.attemptLimit) := by
          rw [lossStales, hc]
          rfl
        have hunlisted : w ∉ s.resync := not_mem_resync hready (by rw [hc]; decide)
        have hcount := h.windows.attempts w
        rw [hc] at hcount
        rw [hl.catchingUp w htest hc]
        by_cases hbelow : (s.window w).attempts + 1 < s.attemptLimit
        · simp only [if_pos hbelow]
          refine fits_taking htakes (holding_ne_none h.windows (by rw [hc]; decide)) (by simp) (by simpa using hno)
            (fun ha => iff_of_true ((hlisted w ha).2 (.inr ⟨htest, ?_⟩)) rfl) hbelow rfl
          rw [hstales, decide_eq_true hbelow]
        · simp only [if_neg hbelow]
          refine fits_taking htakes (holding_ne_none h.windows (by rw [hc]; decide)) (by simp) (by simpa using hno)
            (fun ha => iff_of_false (fun hm => ?_) (by simp)) ?_ rfl
          · rcases (hlisted w ha).1 hm with hm | hm
            · exact hunlisted hm
            · rw [hstales, decide_eq_true_eq] at hm
              exact hbelow hm.2
          · change _ + 1 = s.attemptLimit
            dsimp only at hcount
            omega
      | _ =>
        have hne : (s.window w).currency ≠ .current ∧ (s.window w).currency ≠ .catchingUp := by rw [hc]; decide
        rw [hl.others w hne.1 hne.2]
        refine hfits.of_iff (iff_of_false hno fun ht => hne.2 (hfits.catchingUp.2 ht)) fun ha => ?_
        rw [hlisted w ha, lossStales, hc]
        simp
  have hnodup : t.resync.Nodup := by
    rw [hl.listed]
    split
    · refine List.nodup_append.2 ⟨h.windows.listedOnce, (List.nodup_finRange 32).filter _, fun a ha b hb => ?_⟩
      rintro rfl
      have hstale := hready.listed a ha
      have hb := (List.mem_filter.1 hb).2
      rw [lossStales, hstale] at hb
      simp at hb
    · exact h.windows.listedOnce
  refine h.catchUpSide hside (.inl htakes) ?_ (windowsAgree_iff.2 ⟨?_, hnodup⟩)
    (servingAgrees_gone h.serving hl.records fun r hr htest => by
      rw [hl.untouched _ htest]
      exact h.serving.current r hr)
  · by_cases ha : s.station = .active
    · exact .inl ha
    · obtain ⟨hserving, hcatchUp⟩ := hready.active ha
      refine .inr ⟨by rw [hl.listed, if_neg ha], ?_, by rw [hl.records.serving, hserving]; rfl, ?_⟩
      · rw [hl.record, hcatchUp]; rfl
      · exact hl.records.turnStays fun r hr => by rw [hserving] at hr; cases hr
  · rw [hside.station, hside.attemptLimit]
    exact hwindow

theorem Agrees.losses (h : Agrees s) (test : WindowNo → Bool) : Agrees (s.losses test) := by
  cases htakes : s.station.takesPart with
  | false => rw [losses_idle h htakes]; exact h
  | true => exact lossesTaken_agrees h htakes (losses_side s test) (losses_taken test h.lossReady)

/-! ## A window declared, resynchronised or caught up -/

/-- The Control Queue behind a DECLARE (R37). -/
def declareControl (s : State) (w : WindowNo) : List FrameBody :=
  match (s.window w).currency, s.catchUp with
  | .catchingUp, some { attempt := n, phase := .requested _, .. } => s.control.erase ((s.window w).creq w n)
  | .catchingUp, some { phase := .copying donor _ _, .. } => queued s.control (.ccan donor w)
  | _, _ => s.control

/-- A DECLARE of a held window that is not CURRENT (R37): its record, if it has one, is dropped, and it leaves the list. -/
theorem declareWindow_eq (h : Agrees s) (h1 : (s.window w).currency ≠ .current) (h2 : (s.window w).currency ≠ .unheld) :
    s.declareWindow w = changed
      { s with catchUp := if (s.window w).currency = .catchingUp then none else s.catchUp
               resync := s.resync.erase w, control := declareControl s w } w .current 0 .declare none := by
  have hplain (c : Option CatchUp) (l : List WindowNo) (q : List FrameBody) :=
    changeCurrency_plain (s := { s with catchUp := c, resync := l, control := q }) w .current 0 .declare none (.inr (.inl rfl))
  unfold State.declareWindow declareControl
  cases hc : (s.window w).currency with
  | unheld => exact absurd hc h2
  | current => exact absurd hc h1
  | stale => exact hplain _ _ _
  | stranded =>
    rw [List.erase_of_not_mem (not_mem_resync h.lossReady (by rw [hc]; decide))]
    exact hplain _ _ _
  | catchingUp =>
    rw [List.erase_of_not_mem (not_mem_resync h.lossReady (by rw [hc]; decide))]
    obtain ⟨⟨x, n, phase, cancelled⟩, hcatch, rfl⟩ := (h.windows.catchingUp w).1 hc
    unfold State.dropForDeclare
    rw [hcatch]
    cases phase
    · dsimp only
      rw [if_pos rfl]
      exact hplain _ _ _
    · dsimp only
      rw [if_pos rfl]
      exact hplain _ _ _

theorem Agrees.declareWindow (h : Agrees s) (ha : s.station = .active) (h1 : (s.window w).currency ≠ .current)
    (h2 : (s.window w).currency ≠ .unheld) : Agrees (s.declareWindow w) := by
  have hside := declareWindow_side s w
  rw [declareWindow_eq h h1 h2] at hside ⊢
  refine h.catchUpSide hside (.inl (takesPart_of_active ha)) (.inl ha) ?_
    ⟨h.serving.pairs, h.serving.turn, fun r hr => ?_⟩
  · refine windowsAgree_one (w := w) h.windows rfl rfl ?_ (fun x hx => ⟨?_, ?_, ?_⟩) (h.windows.listedOnce.erase w)
    · rw [changed_window, if_pos rfl, ha]
      have hheld := holding_ne_none h.windows h2
      refine fits_active hheld (by simp) (iff_of_false (by simp) ?_) (iff_of_false (List.Nodup.not_mem_erase h.windows.listedOnce) (by simp)) rfl rfl
      by_cases hc : (s.window w).currency = .catchingUp
      · exact tries_none (if_pos hc) w
      · intro ⟨c, hcatch, hw⟩
        exact hc ((h.windows.catchingUp w).2 ⟨c, (if_neg hc).symm.trans hcatch, hw⟩)
    · rw [changed_window, if_neg hx.symm]
      rfl
    · by_cases hc : (s.window w).currency = .catchingUp
      · obtain ⟨c, hcatch, rfl⟩ := (h.windows.catchingUp w).1 hc
        exact iff_of_false (tries_none (if_pos hc) x) fun ht => hx ((tries_some hcatch x).1 ht).symm
      · refine exists_congr fun c => and_congr_left fun _ => ?_
        exact Eq.congr (if_neg hc) rfl
    · exact List.mem_erase_of_ne hx
  · rw [changed_window]
    split
    · rfl
    · exact h.serving.current r hr

/-- With no record that passes, none ends. -/
theorem abortServing_none (h : ∀ r ∈ s.serving, r.window ≠ w) : s.abortServing w = s := by
  unfold State.abortServing
  rw [List.filter_eq_nil_iff.2 (by simpa using h)]
  rfl

/-- A RESYNC of a CURRENT or STRANDED window (R38); a STRANDED one has no serving record to end. -/
theorem resyncWindow_eq (h : Agrees s) (ha : s.station = .active)
    (hc : (s.window w).currency = .current ∨ (s.window w).currency = .stranded) :
    s.resyncWindow w = { (changed s w .stale 0 .resync none).abortServing w with resync := s.resync ++ [w] } := by
  have hunlisted : w ∉ s.resync := not_mem_resync h.lossReady (by rcases hc with hc | hc <;> rw [hc] <;> decide)
  have hchange : s.changeCurrency w .stale 0 .resync none = (changed s w .stale 0 .resync none).abortServing w := by
    rcases hc with hc | hc
    · exact changeCurrency_leaving _ _ _ _ _ hc (by decide) ha
    · rw [changeCurrency_plain _ _ _ _ _ (.inl (by rw [hc]; decide))]
      refine (abortServing_none fun r hr he => ?_).symm
      have hcur := h.serving.current r hr
      rw [he, hc] at hcur
      cases hcur
  have hact : s.resyncWindow w = (s.changeCurrency w .stale 0 .resync none).joinResync w := by
    unfold State.resyncWindow
    rcases hc with hc | hc <;> rw [hc]
  have hside := abortServing_side (changed s w .stale 0 .resync none) w
  rw [hact, hchange, State.joinResync]
  have hresync : ((changed s w .stale 0 .resync none).abortServing w).resync = s.resync := by
    rw [hside]
    rfl
  rw [hresync, addOnce_of_not_mem hunlisted]

/-- What a RESYNC leaves: the window STALE at the tail of the list, and no serving record of it (R38, R154). -/
theorem resyncWindow_done (h : Agrees s) (ha : s.station = .active)
    (hc : (s.window w).currency = .current ∨ (s.window w).currency = .stranded) :
    (s.resyncWindow w).window w = { s.window w with currency := .stale, attempts := 0, coldMark := none } ∧
    (∀ x, x ≠ w → (s.resyncWindow w).window x = s.window x) ∧ (s.resyncWindow w).resync = s.resync ++ [w] ∧
    RecordsEnded (fun r => decide (r.window = w)) true s (s.resyncWindow w) ∧
    Reports s (s.resyncWindow w) [⟨subjectOf w.val, s.clock.round, .windowState (s.window w).currency .stale .resync 0 none⟩] ∧
    CatchUpSide s (s.resyncWindow w) ∧ (s.resyncWindow w).catchUp = s.catchUp := by
  have hended := abortServing_ended (s := changed s w .stale 0 .resync none) w h.serving.pairs
  have hside := abortServing_side (changed s w .stale 0 .resync none) w
  have hreports := changed_reports s w .stale 0 .resync none
  have hall := resyncWindow_side s w
  rw [resyncWindow_eq h ha hc] at hall ⊢
  have hwindow (x : WindowNo) := changed_window s w x .stale 0 .resync none
  generalize State.abortServing (changed s w .stale 0 .resync none) w = t at *
  have hwindows (x : WindowNo) := window_congr (s := changed s w .stale 0 .resync none) (t := t) (by rw [hside]) x
  have hgone : RecordsGone (fun r => decide (r.window = w)) s t := hended.1.from_eq rfl rfl rfl rfl
  refine ⟨?_, fun x hx => ?_, rfl, ⟨hgone.of_eq rfl rfl rfl rfl, hended.2⟩, ?_, hall, ?_⟩
  · exact (hwindows w).trans ((hwindow w).trans (if_pos rfl))
  · exact (hwindows x).trans ((hwindow x).trans (if_neg hx.symm))
  · exact hreports.of_eq (by rw [hside]) (by rw [hside])
  · change t.catchUp = _
    rw [hside]
    rfl

theorem Agrees.resyncWindow (h : Agrees s) (ha : s.station = .active)
    (hc : (s.window w).currency = .current ∨ (s.window w).currency = .stranded) : Agrees (s.resyncWindow w) := by
  obtain ⟨hown, hother, hresync, hended, -, hside, hcatchUp⟩ := resyncWindow_done h ha hc
  generalize s.resyncWindow w = t at *
  have hunlisted : w ∉ s.resync := not_mem_resync h.lossReady (by rcases hc with hc | hc <;> rw [hc] <;> decide)
  have htries : ∀ x, State.tries t x ↔ State.tries s x := fun x => by simp only [State.tries, hcatchUp]
  refine h.catchUpSide hside (.inl (takesPart_of_active ha)) (.inl ha) ?_
    (servingAgrees_gone h.serving hended.1 fun r hr he => ?_)
  · refine windowsAgree_one (w := w) h.windows hside.station hside.attemptLimit ?_ (fun x hx => ⟨hother x hx, htries x, ?_⟩) ?_
    · rw [hown, ha]
      refine fits_active (holding_ne_none h.windows ?_) (by simp) (iff_of_false (by simp) ?_)
        (iff_of_true (by rw [hresync]; simp) rfl) (h.limit_pos (takesPart_of_active ha)) rfl
      · rcases hc with hc | hc <;> rw [hc] <;> decide
      · rw [htries]
        intro ht
        have := (h.windows.catchingUp w).2 ht
        rcases hc with hc | hc <;> rw [hc] at this <;> cases this
    · rw [hresync]
      simp [hx]
    · rw [hresync]
      exact nodup_concat h.windows.listedOnce hunlisted
  · rw [hother _ (by simpa using he)]
    exact h.serving.current r hr

/-- The donor's last word makes the window CURRENT (R142). -/
theorem Agrees.succeed (h : Agrees s) {c : CatchUp} (hc : s.catchUp = some c) (donor : StationNo) : Agrees (s.succeed c donor) := by
  have hside := succeed_side s c donor
  have ha := h.active_of_catchUp hc
  have hcatching := (h.windows.catchingUp c.window).2 ⟨c, hc, rfl⟩
  have hplain := changeCurrency_plain (s := { s with catchUp := none }) c.window .current 0 .catchUpDone none (.inr (.inl rfl))
  rw [State.succeed, hplain] at hside ⊢
  refine h.catchUpSide hside (.inl (takesPart_of_active ha)) (.inl ha) ?_
    ⟨h.serving.pairs, h.serving.turn, fun r hr => ?_⟩
  · have hnone (x : WindowNo) := tries_none (s := (changed { s with catchUp := none } c.window .current 0 .catchUpDone none).event
      (subjectOf c.window.val) (.catchUpDone donor (s.window c.window).heldCount c.attempt)) rfl x
    refine windowsAgree_one (w := c.window) h.windows rfl rfl ?_ (fun x hx => ⟨?_, ?_, Iff.rfl⟩) h.windows.listedOnce
    · refine Eq.mpr (congrArg _ ((changed_window { s with catchUp := none } c.window c.window .current 0 .catchUpDone none).trans
        (if_pos rfl))) ?_
      rw [ha]
      have hunlisted : c.window ∉ s.resync := not_mem_resync h.lossReady (by rw [hcatching]; decide)
      have hheld := holding_ne_none (w := c.window) h.windows (by rw [hcatching]; decide)
      refine fits_active hheld (by simp) (iff_of_false (by simp) (hnone _))
        (iff_of_false hunlisted (by simp)) rfl rfl
    · exact (changed_window { s with catchUp := none } c.window x .current 0 .catchUpDone none).trans (if_neg hx.symm)
    · exact iff_of_false (hnone x) fun ht => hx ((tries_some hc x).1 ht).symm
  · refine (congrArg WindowRecord.currency
      (changed_window { s with catchUp := none } c.window r.window .current 0 .catchUpDone none)).trans ?_
    split
    · rfl
    · exact h.serving.current r hr

/-! ## The cold contest and the cold marks -/

/-- What the yield of the cold contest leaves (R34). -/
theorem yielded_agrees {x : StationNo} {misaligned : Bool} (h : Agrees s) (ha : s.station = .active)
    (hside : CatchUpSide s t) (hy : Yielded x misaligned s t) : Agrees t := by
  have hcatchUp : t.catchUp = s.catchUp := by rw [hy.frame]
  have htries : ∀ w, State.tries t w ↔ State.tries s w := fun w => by simp only [State.tries, hcatchUp]
  have hlisted : ∀ w, w ∈ t.resync ↔ w ∈ s.resync ∨ (s.window w).currency = .current := fun w => by
    rw [hy.listed, List.mem_append, List.mem_filter, decide_eq_true_eq]
    exact or_congr_right (and_iff_right (List.mem_finRange w))
  refine h.catchUpSide hside (.inl (takesPart_of_active ha)) (.inl ha) (windowsAgree_iff.2 ⟨fun w => ?_, ?_⟩)
    (servingAgrees_gone h.serving hy.records fun r hr he => ?_)
  · have hfits := (windowsAgree_iff.1 h.windows).1 w
    rw [hside.station, hside.attemptLimit, hy.windows]
    by_cases hc : (s.window w).currency = .current
    · have hcount := hfits.attempts
      rw [hc] at hcount
      simp only [if_pos hc]
      refine ⟨iff_of_false (holding_ne_none h.windows (by rw [hc]; decide)) (by simp), ?_,
        fun _ => iff_of_true ((hlisted w).2 (.inr hc)) rfl, fun ho => ?_, ?_, fun n hn => by cases hn⟩
      · rw [htries, ← hfits.catchingUp, hc]
        simp
      · rw [ha] at ho; cases ho
      · change (s.window w).attempts < s.attemptLimit
        rw [hcount]
        exact h.limit_pos (takesPart_of_active ha)
    · simp only [if_neg hc]
      refine ⟨hfits.held, hfits.catchingUp.trans (htries w).symm, fun _ => ?_, hfits.offLine, hfits.attempts,
        fun n hn => by cases hn⟩
      rw [hlisted, or_iff_left hc]
      exact hfits.listed ha
  · rw [hy.listed]
    refine List.nodup_append.2 ⟨h.windows.listedOnce, (List.nodup_finRange 32).filter _, fun a ha' b hb => ?_⟩
    rintro rfl
    have hb := (List.mem_filter.1 hb).2
    rw [h.lossReady.listed a ha'] at hb
    cases hb
  · have hcur := h.serving.current r hr
    rw [hcur] at he
    cases he

theorem Agrees.coldYield (h : Agrees s) (ha : s.station = .active) (x : StationNo) (misaligned : Bool) :
    Agrees (s.coldYield x misaligned) :=
  yielded_agrees h ha (coldYield_side s x misaligned) (coldYield_yielded x misaligned ha h.lossReady)

theorem Agrees.contest (h : Agrees s) (p : Profile) (x : StationNo) (cold misaligned : Bool) :
    Agrees (s.contest p x cold misaligned) := by
  unfold State.contest
  split
  next hc => exact h.coldYield hc.1 x misaligned
  next => exact h

/-- A cold mark less one stays from 1 to 4, on a window whose record is otherwise as it was (R33). -/
theorem reduceMark_fits {station : StationState} {limit : Nat} {tried listed : Prop} {r : WindowRecord}
    (h : Fits station limit tried listed r) : Fits station limit tried listed r.reduceMark := by
  unfold WindowRecord.reduceMark
  split
  next => exact h
  next n hn =>
    refine ⟨h.held, h.catchingUp, h.listed, h.offLine, h.attempts, fun m hm => ?_⟩
    obtain ⟨h1, h2, h3, h4⟩ := h.marks n hn
    dsimp only at hm
    split at hm
    · cases hm
    · cases hm
      exact ⟨h1, h2, by omega, by omega⟩

theorem reduceColdMarks_window (w : WindowNo) : s.reduceColdMarks.window w =
    if s.station = .active then (s.window w).reduceMark else s.window w := by
  unfold State.reduceColdMarks
  split
  · exact mapWindows_window _ _ w
  · rfl

theorem reduceMark_currency (r : WindowRecord) : r.reduceMark.currency = r.currency := by
  unfold WindowRecord.reduceMark
  split <;> rfl

theorem Agrees.reduceColdMarks (h : Agrees s) : Agrees s.reduceColdMarks := by
  have hside := reduceColdMarks_side s
  have hwindow (w : WindowNo) := reduceColdMarks_window (s := s) w
  by_cases ha : s.station = .active
  · have hcatchUp : s.reduceColdMarks.catchUp = s.catchUp := by rw [State.reduceColdMarks, if_pos ha, mapWindows_catchUp]
    have hresync : s.reduceColdMarks.resync = s.resync := by rw [State.reduceColdMarks, if_pos ha, mapWindows_resync]
    have hserving : s.reduceColdMarks.serving = s.serving := by rw [State.reduceColdMarks, if_pos ha, mapWindows_serving]
    have hturn : s.reduceColdMarks.turn = s.turn := by rw [State.reduceColdMarks, if_pos ha, mapWindows_turn]
    generalize s.reduceColdMarks = t at *
    have htries : ∀ w, State.tries t w ↔ State.tries s w := fun w => by simp only [State.tries, hcatchUp]
    simp only [if_pos ha] at hwindow
    refine h.catchUpSide hside.toCatchUpSide (.inl (takesPart_of_active ha)) (.inl ha) (windowsAgree_iff.2 ⟨fun w => ?_, ?_⟩)
      ⟨by rw [hserving]; exact h.serving.pairs, by rw [hserving, hturn]; exact h.serving.turn, fun r hr => ?_⟩
    · rw [hside.toCatchUpSide.station, hside.toCatchUpSide.attemptLimit, hwindow, hresync]
      exact reduceMark_fits (((windowsAgree_iff.1 h.windows).1 w).of_iff (htries w) fun _ => Iff.rfl)
    · rw [hresync]
      exact h.windows.listedOnce
    · rw [hserving] at hr
      rw [hwindow, reduceMark_currency]
      exact h.serving.current r hr
  · unfold State.reduceColdMarks
    rw [if_neg ha]
    exact h

/-! ## Serving records that end or are made -/

/-- Records that end, and nothing else but what is queued. -/
theorem Agrees.recordsGone {ended : ServingRecord → Bool} (h : Agrees s) (hside : CopySide s t)
    (hcontrol : s.station.takesPart = true ∨ t.control = s.control) (hg : RecordsGone ended s t) : Agrees t := by
  have hwindows : t.windows = s.windows := by rw [hside]
  have hcatchUp : t.catchUp = s.catchUp := by rw [hside]
  have hresync : t.resync = s.resync := by rw [hside]
  refine h.catchUpSide hside.toCatchUpSide hcontrol ?_ ?_ (servingAgrees_gone h.serving hg fun r hr _ => ?_)
  · by_cases ha : s.station = .active
    · exact .inl ha
    · have hnone := h.quiet.serving ha
      refine .inr ⟨hresync, hcatchUp, by rw [hg.serving, hnone]; rfl, ?_⟩
      exact hg.turnStays fun r hr => by rw [hnone] at hr; cases hr
  · exact windowsAgree_congr h.windows (by rw [hside]) (by rw [hside]) hwindows
      (fun w => by simp only [State.tries, hcatchUp]) hresync
  · rw [window_congr (s := s) hwindows]
    exact h.serving.current r hr

theorem Agrees.recordsEnded {ended : ServingRecord → Bool} {told : Bool} (h : Agrees s) (hside : CopySide s t)
    (he : RecordsEnded ended told s t) : Agrees t := by
  refine h.recordsGone hside ?_ he.1
  by_cases ha : s.station = .active
  · exact .inl (takesPart_of_active ha)
  · refine .inr ?_
    rw [he.2, h.quiet.serving ha]
    rfl

theorem Agrees.joinerDeparted (h : Agrees s) (station : StationNo) : Agrees (s.joinerDeparted station) :=
  h.recordsEnded (joinerDeparted_side s station) (joinerDeparted_ended station h.serving.pairs)

theorem Agrees.clearOffer (h : Agrees s) (joiner : StationNo) (w : WindowNo) : Agrees (s.clearOffer joiner w) :=
  h.recordsEnded (clearOffer_side s joiner w) (clearOffer_ended h.serving.pairs)

theorem Agrees.withdrawOffer (h : Agrees s) (joiner : StationNo) (w : WindowNo) : Agrees (s.withdrawOffer joiner w) :=
  h.recordsEnded (withdrawOffer_side s joiner w) (withdrawOffer_ended h.serving.pairs)

theorem Agrees.lapseOffers (h : Agrees s) : Agrees s.lapseOffers := by
  by_cases ha : s.station = .active
  · exact h.recordsEnded (lapseOffers_side s) (lapseOffers_ended ha h.serving.pairs)
  · unfold State.lapseOffers
    rw [if_neg ha]
    exact h

/-- A new record of a pair that the list does not hold, for a CURRENT window. -/
theorem Agrees.createOffer (h : Agrees s) (ha : s.station = .active) {joiner : StationNo} (first last : BitVec 10)
    (hcur : (s.window w).currency = .current) (hnew : (joiner, w) ∉ s.serving.map ServingRecord.pair) :
    Agrees (s.createOffer joiner w first last) := by
  have hside := createOffer_side s joiner w first last
  rw [createOffer_eq] at hside ⊢
  split at hside
  next hroom =>
    rw [if_pos hroom]
    refine h.catchUpSide hside.toCatchUpSide (.inl (takesPart_of_active ha)) (.inl ha)
      (windowsAgree_congr h.windows rfl rfl rfl (fun _ => Iff.rfl) rfl) ⟨?_, fun pair hturn => ?_, fun r hr => ?_⟩
    · dsimp only
      rw [List.map_append, List.nodup_append]
      refine ⟨h.serving.pairs, List.nodup_singleton _, fun a ha' b hb => ?_⟩
      rintro rfl
      obtain rfl := List.mem_singleton.1 hb
      exact hnew ha'
    · obtain ⟨r, hr, hpair⟩ := h.serving.turn pair hturn
      exact ⟨r, List.mem_append_left _ hr, hpair⟩
    · rcases List.mem_append.1 hr with hr | hr
      · exact h.serving.current r hr
      · rw [List.mem_singleton.1 hr]
        exact hcur
  next hfull => rw [if_neg hfull]; exact h

theorem Agrees.takeCreq (h : Agrees s) (joiner : StationNo) (w : WindowNo) (first last : BitVec 10) :
    Agrees (s.takeCreq joiner w first last) := by
  unfold State.takeCreq
  split
  next hmay =>
    have hside := clearOffer_side s joiner w
    have hgone := (clearOffer_ended (s := s) (joiner := joiner) (w := w) h.serving.pairs).1
    have hmay' : s.station = .active ∧ (s.window w).currency = .current := by
      simp only [State.mayOffer, Bool.and_eq_true, decide_eq_true_eq] at hmay
      exact ⟨hmay.1.1.1.1, hmay.1.1.2⟩
    refine (h.clearOffer joiner w).createOffer (by rw [hside]; exact hmay'.1) first last ?_ ?_
    · rw [window_congr (s := s) (by rw [hside])]
      exact hmay'.2
    · rw [hgone.serving]
      intro hm
      obtain ⟨r, hr, hpair⟩ := List.mem_map.1 hm
      have hr := (List.mem_filter.1 hr).2
      simp [ServingRecord.pair] at hpair
      simp [hpair] at hr
  next => exact h

/-- A record's phase changes, and neither its pair nor its window. -/
theorem Agrees.mapServing (h : Agrees s) (f : ServingRecord → ServingRecord) (hpair : ∀ r, (f r).pair = r.pair) :
    Agrees { s with serving := s.serving.map f } := by
  have hpairs : (s.serving.map f).map ServingRecord.pair = s.serving.map ServingRecord.pair := by
    rw [List.map_map]
    exact List.map_congr_left fun r _ => hpair r
  refine ⟨clockAgrees_congr h.clock rfl rfl rfl rfl rfl Iff.rfl, ?_, profileAgrees_congr h.profile rfl rfl rfl rfl, ?_, ?_⟩
  · obtain ⟨h1, h2, h3, h4, h5, h6, h7, h8⟩ := h.quiet
    refine ⟨h1, h2, h3, h4, h5, fun ha => ?_, h7, h8⟩
    change s.serving.map f = []
    rw [h6 ha]
    rfl
  · exact windowsAgree_congr h.windows rfl rfl rfl (fun _ => Iff.rfl) rfl
  · refine ⟨by rw [hpairs]; exact h.serving.pairs, fun pair hturn => ?_, fun r hr => ?_⟩
    · obtain ⟨r, hr, hp⟩ := h.serving.turn pair hturn
      exact ⟨f r, List.mem_map_of_mem hr, (hpair r).trans hp⟩
    · obtain ⟨q, hq, rfl⟩ := List.mem_map.1 hr
      rw [show (f q).window = q.window from congrArg Prod.snd (hpair q)]
      exact h.serving.current q hq

theorem Agrees.cbegReported (h : Agrees s) (joiner : StationNo) (w : WindowNo) : Agrees (s.cbegReported joiner w) :=
  h.mapServing _ fun r => by split <;> rfl

/-! ## The Roster -/

/-- The records of the Roster may change, and there are none where there were none. -/
theorem Agrees.mapRoster (h : Agrees s) (f : RosterRecord → RosterRecord) : Agrees { s with roster := s.roster.map f } :=
  h.congr (hroster := fun _ hr => by
    change s.roster.map f = []
    rw [hr]
    rfl)

theorem Agrees.updateRoster (h : Agrees s) (station : StationNo) (f : RosterRecord → RosterRecord) :
    Agrees (s.updateRoster station f) := h.mapRoster _

theorem Agrees.event (h : Agrees s) (subject : Option Half) (d : EventDetail) : Agrees (s.event subject d) := h.congr

theorem Agrees.donorDeparted (h : Agrees s) (station : StationNo) : Agrees (s.donorDeparted station) := by
  rw [donorDeparted_eq]
  split
  · exact h.failAttempt _
  · exact h

theorem Agrees.depart (h : Agrees s) (station : StationNo) (next : RosterState) (cause : DepartCause) :
    Agrees (s.depart station next cause) := by
  unfold State.depart
  split
  · exact h
  · dsimp only
    split
    · exact (((h.updateRoster _ _).event _ _).donorDeparted station).joinerDeparted station
    · exact h.updateRoster _ _

theorem Agrees.rosterHeard (h : Agrees s) (header : Header) (cold leaving : Bool) (current : WindowSet) :
    Agrees (s.rosterHeard header cold leaving current) := by
  unfold State.rosterHeard
  split
  · exact h
  · dsimp only
    split
    · exact h.updateRoster _ _
    · exact (h.updateRoster _ _).event _ _

theorem Agrees.rosterSeen (h : Agrees s) (header : Header) (leaving : Bool) (current : WindowSet) :
    Agrees (s.rosterSeen header leaving current) := h.updateRoster _ _

theorem Agrees.examineRoster (h : Agrees s) : Agrees s.examineRoster := by
  unfold State.examineRoster
  split
  · exact h.mapRoster _
  · exact h

theorem Agrees.silentPeer (h : Agrees s) (station : StationNo) : Agrees (s.silentPeer station) := by
  unfold State.silentPeer
  split
  · exact h
  · split
    · exact h.depart _ _ _
    · exact h

theorem Agrees.departSilent (h : Agrees s) : Agrees s.departSilent := by
  unfold State.departSilent
  generalize s.roster = l
  induction l generalizing s with
  | nil => exact h
  | cons r l ih => exact ih (h.silentPeer r.station).tryBegin

/-! ## Accounts -/

theorem Agrees.deliverAll (h : Agrees s) (l : List Notice) : Agrees (s.deliverAll l) := by
  rw [deliverAll_eq]
  exact h.congr

/-- No account is open off the line, and none opens there. -/
theorem Agrees.setAccount (h : Agrees s) (a : Option Account) (ha : s.account = none → a = none) :
    Agrees { s with account := a } := h.congr (haccount := fun _ hn => ha hn)

theorem Agrees.finishAccount (h : Agrees s) (a : Account) : Agrees (s.finishAccount a) := by
  unfold State.finishAccount
  dsimp only
  split
  · exact (h.deliverAll _).depart _ _ _
  · exact h.deliverAll _

theorem Agrees.endUnclosed (h : Agrees s) (a : Account) (ending : AccountEnding) : Agrees (s.endUnclosed a ending) :=
  (((h.setAccount none fun _ => rfl).event _ _).losses _).finishAccount a

theorem Agrees.endAccount (h : Agrees s) (ending : AccountEnding) : Agrees (s.endAccount ending) := by
  unfold State.endAccount
  split
  · exact h
  · exact h.endUnclosed _ _

theorem Agrees.graceExpired (h : Agrees s) (k : Nat) : Agrees (s.graceExpired k) := by
  unfold State.graceExpired
  split
  · exact h
  · split
    · exact h.endUnclosed _ _
    · exact h

theorem Agrees.armAccount (h : Agrees s) (k : Nat) : Agrees (s.armAccount k) :=
  h.setAccount _ fun hn => by rw [hn]; rfl

/-- The station state is kept by everything that the Apply Unit sets off. -/
theorem applySide_station (h : ApplySide s t) : t.station = s.station := by rw [h]

theorem Agrees.takeOpen (h : Agrees s) (header : Header) (leaving foreign : Bool) :
    Agrees (s.takeOpen header leaving foreign) := by
  unfold State.takeOpen
  split
  next htakes =>
    dsimp only
    have hended := h.endAccount .nextOpen
    have hstation := applySide_station (endAccount_side s .nextOpen)
    split
    · exact hended
    · exact hended.congr (haccount := fun ho => by
        rw [hstation] at ho
        rw [ho] at htakes
        cases htakes)
  next => exact h

theorem Agrees.checkClose (h : Agrees s) (a : Account) (updates frames : Byte) (touched : WindowSet) :
    Agrees (s.checkClose a updates frames touched) := by
  unfold State.checkClose
  split
  · exact Agrees.losses (h.event _ _) _
  · split
    · exact h.losses _
    · split
      · exact h.event _ _
      · exact h

theorem Agrees.checkUnopened (h : Agrees s) (header : Header) (updates frames : Byte) (touched : WindowSet) :
    Agrees (s.checkUnopened header updates frames touched) := by
  unfold State.checkUnopened
  split
  · exact h.losses _
  · split
    · exact h.event _ _
    · exact h

theorem Agrees.takeClose (h : Agrees s) (header : Header) (updates frames : Byte) (touched : WindowSet) :
    Agrees (s.takeClose header updates frames touched) := by
  unfold State.takeClose
  split
  · exact h
  · split
    · exact h.checkUnopened _ _ _ _
    · exact ((h.setAccount none fun _ => rfl).checkClose _ _ _ _).finishAccount _

theorem Agrees.admitUpdate (h : Agrees s) (peer : Option StationNo) (w : WindowNo) (first : BitVec 4) (block : BitVec 10)
    (words : List Word) : Agrees (s.admitUpdate peer w first block words) := by
  unfold State.admitUpdate
  split
  · split
    · exact h
    · exact h.congr
  · exact h

/-- A loss against one window is that of the windows that are it. -/
theorem losses_one (s : State) (w : WindowNo) : s.losses (fun x => decide (x = w)) = s.loss w := by
  have hone : allWindows.filter (fun x => decide (x = w)) = [w] := by
    have hcount : allWindows.count w = 1 := List.count_eq_one_of_mem (List.nodup_finRange 32) (List.mem_finRange w)
    rw [List.filter_eq, hcount]
    rfl
  unfold State.losses
  rw [hone]
  rfl

theorem Agrees.loss (h : Agrees s) (w : WindowNo) : Agrees (s.loss w) := losses_one s w ▸ h.losses _

theorem Agrees.countFrame (h : Agrees s) : Agrees s.countFrame := h.setAccount _ fun hn => by rw [hn]; rfl

theorem Agrees.takeUpd (h : Agrees s) (header : Header) (w : WindowNo) (first : BitVec 4) (block : BitVec 10)
    (words : List Word) : Agrees (s.takeUpd header w first block words) := by
  unfold State.takeUpd
  split
  · exact h
  · split
    · exact h.loss w
    · have hcounted : Agrees (s.countFrame.countUpdate w) := h.countFrame.setAccount _ fun hn => by rw [hn]; rfl
      exact hcounted.admitUpdate _ _ _ _ _

/-! ## Frames of catch-up -/

theorem Agrees.joinerCend (h : Agrees s) (sender : StationNo) (w : WindowNo) : Agrees (s.joinerCend sender w) := by
  unfold State.joinerCend
  split
  next hc =>
    split
    · split
      · exact h.succeed hc _
      · exact h.failAttempt _
    · exact h
  next => exact h

theorem Agrees.joinerCabt (h : Agrees s) (sender : StationNo) (w : WindowNo) : Agrees (s.joinerCabt sender w) := by
  unfold State.joinerCabt
  split
  · split
    · exact h.failAttempt _
    · exact h
  · exact h

theorem Agrees.expireWait (h : Agrees s) : Agrees s.expireWait := by
  unfold State.expireWait
  split
  · exact h.failAttempt _
  · exact h

theorem Agrees.expireStall (h : Agrees s) : Agrees s.expireStall := by
  unfold State.expireStall
  split
  · exact h.failAttempt _
  · exact h

end Sys2Proof.Proofs

/-! DECLARE and RESYNC (R37, R38): the operand checks they share, and what each does by the window's currency. -/

namespace Sys2Proof.Proofs

-- One proof at a time: every further thread of the elaborator counts against the memory limit.
set_option Elab.async false

open Sys2Proof Sys2Proof.Machine Sys2Proof.Laws

variable {s t u v : State} {w : WindowNo} {act : State → WindowNo → State}

/-! ## The commands that name a held window -/

theorem onHeldWindow_badState (h : s.station ≠ .active) : s.onHeldWindow act = s.complete .badState := by
  unfold State.onHeldWindow
  rw [if_neg h]

theorem onHeldWindow_noWindow (ha : s.station = .active) (hw : windowOperand (s.operand 0) = none) :
    s.onHeldWindow act = s.complete .badOperand := by
  unfold State.onHeldWindow
  rw [if_pos ha, hw]

theorem onHeldWindow_unheld (ha : s.station = .active) (hw : windowOperand (s.operand 0) = some w)
    (hheld : (s.window w).holding = none) : s.onHeldWindow act = s.complete .badOperand := by
  have hno : ¬ (s.window w).isHeld = true := by simp [WindowRecord.isHeld, hheld]
  unfold State.onHeldWindow
  rw [if_pos ha, hw]
  exact if_neg hno

theorem onHeldWindow_held (ha : s.station = .active) (hw : windowOperand (s.operand 0) = some w)
    (hheld : (s.window w).holding ≠ none) : s.onHeldWindow act = (act s w).complete .done := by
  have hyes : (s.window w).isHeld = true := (isHeld_iff).2 hheld
  unfold State.onHeldWindow
  rw [if_pos ha, hw]
  exact if_pos hyes

/-! ## What is said of a state whatever its control region -/

/-- The test of R129 does not read the control region. -/
theorem attemptTested_region (h : AttemptTested u v) (m : Memory) :
    AttemptTested { u with region := m } { v with region := m } := by
  have hnext : State.nextTried { u with region := m } = u.nextTried := rfl
  unfold AttemptTested at h ⊢
  rw [hnext]
  split at h
  · rw [h]
  · obtain ⟨h1, h2, h3, h4, h5, h6⟩ := h
    exact ⟨h1, h2, h3, h4, (h5.of_eq rfl rfl).from_eq rfl rfl, by rw [h6]⟩

theorem declareWindow_idle (h : (s.window w).currency = .current) : s.declareWindow w = s := by
  unfold State.declareWindow
  rw [h]

theorem resyncWindow_idle (h : (s.window w).currency = .stale ∨ (s.window w).currency = .catchingUp) :
    s.resyncWindow w = s := by
  unfold State.resyncWindow
  rcases h with h | h <;> rw [h]

theorem region_agrees (h : s.Sound) (m : Memory) : Agrees { s with region := m } := (agrees_of_sound h).congr

theorem currency_unheld (h : s.WindowsAgree) (hheld : (s.window w).holding ≠ none) : (s.window w).currency ≠ .unheld :=
  fun hc => hheld ((h.held w).2 hc)

/-- Settles O19, by the currency of the window that is declared. -/
theorem declareMakesTheWindowCurrent : Obligations.DeclareMakesTheWindowCurrent := by
  intro s window tag hwf hflight hs
  have hpast (hstation : s.station ≠ .initialising) :=
    exec_pastGate (i := .declare window tag) rfl runCommand_declare hwf hstation (.inl hflight)
  refine ⟨fun hstation hna => ?_, fun ha hbig => ?_, fun w ha hval => ⟨fun hheld => ?_, fun hcur => ?_, fun hheld hcur => ?_⟩⟩
  · obtain ⟨m, hm, hexec, -⟩ := hpast hstation
    rw [State.takeDeclare, onHeldWindow_badState (s := { s with region := m }) hna] at hexec
    exact onlyCompletes_of rfl hwf hm hexec
  · obtain ⟨m, hm, hexec, hops⟩ := hpast (by rw [ha]; decide)
    rw [State.takeDeclare, onHeldWindow_noWindow (s := { s with region := m }) ha
      (by rw [hops 0 window rfl]; exact windowOperand_of_le hbig)] at hexec
    exact onlyCompletes_of rfl hwf hm hexec
  all_goals
    obtain ⟨m, hm, hexec, hops⟩ := hpast (by rw [ha]; decide)
    have hw : windowOperand (State.operand { s with region := m } 0) = some w := by
      rw [hops 0 window rfl]; exact windowOperand_of_val hval
  · rw [State.takeDeclare, onHeldWindow_unheld (s := { s with region := m }) ha hw hheld] at hexec
    exact onlyCompletes_of rfl hwf hm hexec
  · have hheld := holding_ne_none (w := w) hs.windows (by rw [hcur]; decide)
    rw [State.takeDeclare, onHeldWindow_held (s := { s with region := m }) ha hw hheld,
      declareWindow_idle (s := { s with region := m }) hcur, tryBegin_none (s := { s with region := m }) hs.settled] at hexec
    exact onlyCompletes_of rfl hwf hm hexec
  · have hagrees := region_agrees hs m
    have hunheld := currency_unheld hs.windows hheld
    have htested := (hagrees.declareWindow ha hcur hunheld).lossReady.tested
    have hside := tryBegin_side (State.declareWindow { s with region := m } w)
    rw [State.takeDeclare, onHeldWindow_held (s := { s with region := m }) ha hw hheld] at hexec
    have heq := declareWindow_eq (s := { s with region := m }) hagrees hcur hunheld
    generalize State.declareWindow { s with region := m } w = u at *
    have hreports : Reports s u [⟨subjectOf w.val, s.clock.round, .windowState (s.window w).currency .current .declare 0 none⟩] := by
      rw [heq]
      exact (changed_reports _ _ _ _ _ _).from_eq rfl rfl
    have hwindow (x : WindowNo) : u.window x =
        if w = x then { s.window w with currency := .current, attempts := 0, coldMark := none } else s.window x := by
      rw [heq]
      exact changed_window _ w x _ _ _ _
    have hcontrol : u.control = declareControl s w := by rw [heq]; rfl
    have hcatchUp : u.catchUp = if (s.window w).currency = .catchingUp then none else s.catchUp := by rw [heq]; rfl
    have hresync : u.resync = s.resync.erase w := by rw [heq]; rfl
    have hframe : u = { s with region := m, windows := u.windows, catchUp := u.catchUp, resync := u.resync,
                               control := u.control, events := u.events, eventOverflow := u.eventOverflow } := by
      rw [heq]; rfl
    generalize u.tryBegin = v at *
    have hregion : v.region = m := by rw [hside, hframe]
    have hcount : v.completion = s.completion := by rw [hside, hframe]
    refine ⟨{ u with region := s.region }, { v with region := s.region }, v.complete .done,
      completes_of rfl hwf hexec (hregion.trans hm) hcount, rfl, attemptTested_region htested _, ?_, fun x hx => ?_, ?_,
      hreports.of_eq rfl rfl, ?_⟩
    · exact (hwindow w).trans (if_pos rfl)
    · exact (hwindow x).trans (if_neg hx.symm)
    · dsimp only
      rw [hcatchUp, hresync, hcontrol, declareControl]
      cases hc : (s.window w).currency with
      | catchingUp =>
        obtain ⟨⟨x, n, phase, cancelled⟩, hcatch, rfl⟩ := (hs.windows.catchingUp w).1 hc
        have hunlisted := List.erase_of_not_mem (not_mem_resync (lossReady_of_sound hs) (w := x) (by rw [hc]; decide))
        rw [hcatch]
        cases phase <;> exact ⟨rfl, hunlisted, rfl⟩
      | _ => exact ⟨rfl, rfl, rfl⟩
    · rw [hframe]

/-- Settles O20, by the currency of the window. -/
theorem resyncListsTheWindow : Obligations.ResyncListsTheWindow := by
  intro s window tag hwf hflight hs
  have hpast (hstation : s.station ≠ .initialising) :=
    exec_pastGate (i := .resync window tag) rfl runCommand_resync hwf hstation (.inl hflight)
  refine ⟨fun hstation hna => ?_, fun ha hbig => ?_, fun w ha hval => ⟨fun hheld => ?_, fun hcur => ?_, fun hcur => ?_⟩⟩
  · obtain ⟨m, hm, hexec, -⟩ := hpast hstation
    rw [State.takeResync, onHeldWindow_badState (s := { s with region := m }) hna] at hexec
    exact onlyCompletes_of rfl hwf hm hexec
  · obtain ⟨m, hm, hexec, hops⟩ := hpast (by rw [ha]; decide)
    rw [State.takeResync, onHeldWindow_noWindow (s := { s with region := m }) ha
      (by rw [hops 0 window rfl]; exact windowOperand_of_le hbig)] at hexec
    exact onlyCompletes_of rfl hwf hm hexec
  all_goals
    obtain ⟨m, hm, hexec, hops⟩ := hpast (by rw [ha]; decide)
    have hw : windowOperand (State.operand { s with region := m } 0) = some w := by
      rw [hops 0 window rfl]; exact windowOperand_of_val hval
  · rw [State.takeResync, onHeldWindow_unheld (s := { s with region := m }) ha hw hheld] at hexec
    exact onlyCompletes_of rfl hwf hm hexec
  · have hheld := holding_ne_none (w := w) hs.windows (by rcases hcur with hcur | hcur <;> rw [hcur] <;> decide)
    rw [State.takeResync, onHeldWindow_held (s := { s with region := m }) ha hw hheld,
      resyncWindow_idle (s := { s with region := m }) hcur, tryBegin_none (s := { s with region := m }) hs.settled] at hexec
    exact onlyCompletes_of rfl hwf hm hexec
  · have hheld := holding_ne_none (w := w) hs.windows (by rcases hcur with hcur | hcur <;> rw [hcur] <;> decide)
    have hagrees := region_agrees hs m
    obtain ⟨hown, hother, hresync, hended, hreports, hfirst, hcatchUp⟩ := resyncWindow_done (w := w) hagrees ha hcur
    have htested := (hagrees.resyncWindow ha hcur).lossReady.tested
    have hside := tryBegin_side (State.resyncWindow { s with region := m } w)
    rw [State.takeResync, onHeldWindow_held (s := { s with region := m }) ha hw hheld] at hexec
    generalize State.resyncWindow { s with region := m } w = u at *
    generalize u.tryBegin = v at *
    have hregion : v.region = m := by rw [hside, hfirst]
    have hcount : v.completion = s.completion := by rw [hside, hfirst]
    have hgone : RecordsGone (fun r => decide (r.window = w)) s u := hended.1.from_eq rfl rfl rfl rfl
    refine ⟨{ u with region := s.region }, { v with region := s.region }, v.complete .done,
      completes_of rfl hwf hexec (hregion.trans hm) hcount, rfl, attemptTested_region htested _, hown, hother, hresync,
      ⟨hgone.of_eq rfl rfl rfl rfl, hended.2⟩, (hreports.of_eq rfl rfl).from_eq rfl rfl, ?_⟩
    rw [hfirst, hcatchUp]

end Sys2Proof.Proofs

/-! Every row leaves a sound station sound: the rows that change nothing the parts rest on, the changes of station state, and
the reception of an OPEN, which moves the clock. -/

namespace Sys2Proof.Proofs

-- One proof at a time: every further thread of the elaborator counts against the memory limit.
set_option Elab.async false

open Sys2Proof Sys2Proof.Machine Sys2Proof.Laws

variable {s t u : State} {p : Profile}

/-! ## Changes that the parts do not see -/

/-- The two states are alike in all that soundness rests on, or differ in it in a way that soundness does not see. -/
structure Steady (s t : State) : Prop where
  station : t.station = s.station := by rfl
  profile : t.profile = s.profile := by rfl
  windows : t.windows = s.windows := by rfl
  initPass : t.initPass = s.initPass := by rfl
  inFlight : t.inFlight = s.inFlight := by rfl
  resync : t.resync = s.resync := by rfl
  serving : t.serving = s.serving := by rfl
  turn : t.turn = s.turn := by rfl
  roster : t.roster = s.roster := by rfl
  tries : ∀ w, State.tries t w ↔ State.tries s w := by exact fun _ => Iff.rfl
  position : t.clock.position.isSome = s.clock.position.isSome := by rfl
  quiet : t.clock.quiet.isSome = s.clock.quiet.isSome := by rfl
  join : t.clock.join.isSome = s.clock.join.isSome := by rfl
  standoff : t.clock.standoff.isSome = s.clock.standoff.isSome := by rfl
  receiver : t.receiver = .off ↔ s.receiver = .off := by exact Iff.rfl
  outbound : s.station.takesPart = false → s.outbound = [] → t.outbound = [] := by exact fun _ h => h
  control : s.station.takesPart = false → s.control = [] → t.control = [] := by exact fun _ h => h
  account : s.station.takesPart = false → s.account = none → t.account = none := by exact fun _ h => h

theorem Steady.refl (s : State) : Steady s s := {}

theorem Steady.trans (h1 : Steady s t) (h2 : Steady t u) : Steady s u where
  station := h2.station.trans h1.station
  profile := h2.profile.trans h1.profile
  windows := h2.windows.trans h1.windows
  initPass := h2.initPass.trans h1.initPass
  inFlight := h2.inFlight.trans h1.inFlight
  resync := h2.resync.trans h1.resync
  serving := h2.serving.trans h1.serving
  turn := h2.turn.trans h1.turn
  roster := h2.roster.trans h1.roster
  tries w := (h2.tries w).trans (h1.tries w)
  position := h2.position.trans h1.position
  quiet := h2.quiet.trans h1.quiet
  join := h2.join.trans h1.join
  standoff := h2.standoff.trans h1.standoff
  receiver := h2.receiver.trans h1.receiver
  outbound ho hn := h2.outbound (h1.station ▸ ho) (h1.outbound ho hn)
  control ho hn := h2.control (h1.station ▸ ho) (h1.control ho hn)
  account ho hn := h2.account (h1.station ▸ ho) (h1.account ho hn)

theorem Agrees.steady (h : Agrees s) (hs : Steady s t) : Agrees t :=
  h.congr hs.station hs.profile hs.windows hs.initPass hs.inFlight hs.resync hs.serving hs.turn hs.tries hs.position
    hs.quiet hs.join hs.standoff hs.receiver hs.outbound hs.control hs.account fun _ hr => hs.roster.trans hr

theorem catchUp_none_iff : s.catchUp = none ↔ ∀ w, ¬ State.tries s w :=
  ⟨fun h w => tries_none h w, fun h => by
    by_contra hne
    obtain ⟨c, hc⟩ := Option.ne_none_iff_exists'.1 hne
    exact h c.window ⟨c, hc, rfl⟩⟩

/-- The window that is tried next is found from the station state, the attempt, the Roster and the list alone. -/
theorem nextTried_congr (hstation : t.station = s.station) (hprofile : t.profile = s.profile) (hroster : t.roster = s.roster)
    (hresync : t.resync = s.resync) (hnone : t.catchUp = none ↔ s.catchUp = none) : t.nextTried = s.nextTried := by
  have hadvertised : t.advertised = s.advertised := by
    funext w
    simp only [State.advertised, hroster]
  unfold State.nextTried
  simp only [hstation, hroster, hresync, hadvertised, hnone, silenceLimit_congr hprofile]

theorem Steady.nextTried (h : Steady s t) : t.nextTried = s.nextTried :=
  nextTried_congr h.station h.profile h.roster h.resync (by rw [catchUp_none_iff, catchUp_none_iff]; simp only [h.tries])

theorem sound_steady (h : s.Sound) (hs : Steady s t) : t.Sound :=
  ((agrees_of_sound h).steady hs).sound (hs.nextTried.trans h.settled)

/-- Behind the test of R129 nothing waits. -/
theorem Agrees.tried (h : Agrees s) : s.tryBegin.Sound := h.tryBegin.sound nextTried_tryBegin

/-- Out of ACTIVE nothing is tried. -/
theorem Agrees.sound_idle (h : Agrees s) (ha : s.station ≠ .active) : s.Sound :=
  h.sound (if_neg fun hc => ha hc.1)

/-- With an empty list nothing is tried. -/
theorem Agrees.sound_unlisted (h : Agrees s) (hr : s.resync = []) : s.Sound :=
  h.sound (by
    unfold State.nextTried
    rw [hr]
    split <;> rfl)

/-! ## The line interface and the Slot Filler -/

theorem lineActivity_steady (s : State) : Steady s s.lineActivity := by
  unfold State.lineActivity
  split
  · exact .refl s
  · exact { quiet := Option.isSome_map }

theorem mapAccount_steady (s : State) (f : Account → Account) : Steady s { s with account := s.account.map f } :=
  { account := fun _ hn => by
      change s.account.map f = none
      rw [hn]
      rfl }

theorem corruptReport_steady (s : State) : Steady s s.corruptReport := by
  unfold State.corruptReport
  split
  · exact (lineActivity_steady s).trans (mapAccount_steady _ _)
  · exact lineActivity_steady s

theorem endDiscardRun_steady (s : State) : Steady s s.endDiscardRun := by
  unfold State.endDiscardRun
  split
  · exact corruptReport_steady s
  · exact .refl s

/-- The receiver goes from one state on the line to another. -/
theorem setReceiver_steady {r : Receiver} (hs : s.receiver ≠ .off) (hr : r ≠ .off) : Steady s (s.setReceiver r) :=
  { receiver := iff_of_false hr hs }

theorem receiver_ne_off (h : s.ClockAgrees) (hon : s.station.onLine = true) : s.receiver ≠ .off := fun hr => by
  rw [h.receiver.1 hr] at hon
  cases hon

theorem onLine_of_hears (h : s.hears = true) : s.station.onLine = true := by
  unfold State.hears at h
  rw [Bool.and_eq_true] at h
  exact h.1

theorem onLine_of_hearsFrame {b : FrameBody} (h : s.hearsFrame b = true) : s.station.onLine = true := by
  rcases hearsFrame_iff.1 h with h | h
  · exact h.1
  · rw [h.2.1]; rfl

/-- A reception's end, behind which the receiver hunts. -/
theorem hunting_steady (h : s.ClockAgrees) (hon : s.station.onLine = true) (hu : Steady s u) :
    Steady s (u.setReceiver .hunting) :=
  hu.trans (setReceiver_steady (r := .hunting) (fun hr => receiver_ne_off h hon (hu.receiver.1 hr)) (by decide))

/-- A reception leaves the station sound where the frame's own action does. -/
theorem receive_sound {header : Header} {b : FrameBody} {act : State → State} (h : s.Sound)
    (hact : ∀ u, Steady s u → (act u).Sound) : (s.receive header b act).Sound := by
  unfold State.receive
  split
  next hhears =>
    have hready := hunting_steady h.clock (onLine_of_hearsFrame hhears) (endDiscardRun_steady s)
    dsimp only
    split
    · exact sound_steady h (hready.trans (corruptReport_steady _))
    · exact hact _ (hready.trans (lineActivity_steady _))
  next => exact h

theorem takeFrame_steady (s : State) (p : Profile) (f : Filling) (b : FrameBody) : Steady s (s.takeFrame p f b) := by
  unfold State.takeFrame
  dsimp only
  split
  next hr =>
    have hs : s.corruptReport.receiver ≠ .off := fun he => by
      rw [(corruptReport_steady s).receiver.1 he] at hr
      rcases hr with hr | hr <;> cases hr
    exact ((corruptReport_steady s).trans (setReceiver_steady (r := .hunting) hs (by decide))).trans {}
  next => exact {}

theorem setFilling_steady (s : State) (f : Filling) : Steady s (s.setFilling f) := {}

theorem sendFrame_steady (s : State) (p : Profile) (f : Filling) (b : FrameBody) : Steady s (s.sendFrame p f b) :=
  (takeFrame_steady s p f b).trans (setFilling_steady _ _)

theorem offerClose_steady (s : State) (p : Profile) (f : Filling) : Steady s (s.offerClose p f) :=
  (takeFrame_steady s p f _).trans (setFilling_steady _ _)

theorem offerOpen_steady (s : State) (p : Profile) (f : Filling) : Steady s (s.offerOpen p f) := by
  unfold State.offerOpen
  split
  · exact setFilling_steady s f
  · exact (takeFrame_steady s p f _).trans (setFilling_steady _ _)

theorem openSlot_steady (s : State) (p : Profile) (k : Nat) (round : Half) (count : Nat) :
    Steady s (s.openSlot p k round count) :=
  Steady.trans (t := { s with lastOpened := some (round, k) }) {} (offerOpen_steady _ p _)

theorem ownSlotStart_steady (s : State) (p : Profile) (k : Nat) : Steady s (s.ownSlotStart p k) := by
  have hopen : Steady s (if s.lastOpened = some (s.clock.round, k) then s
      else match s.filler with
        | none => s.openSlot p k s.clock.round 0
        | some f => s.setFilling (f.deferSlot k s.clock.round)) := by
    split
    · exact .refl s
    · split
      · exact openSlot_steady s p k _ 0
      · exact setFilling_steady s _
  have hleaving : Steady s (if s.lastOpened = some (s.clock.round, k) then s
      else match s.filler with
        | none => s.openSlot p k s.clock.round 0
        | some f => if f.leaving then s else s.setFilling (f.deferSlot k s.clock.round)) := by
    split
    · exact .refl s
    · split
      · exact openSlot_steady s p k _ 0
      · split
        · exact .refl s
        · exact setFilling_steady s _
  unfold State.ownSlotStart
  cases s.station with
  | coldStart | active => exact hopen
  | leaving => exact hleaving
  | _ => exact .refl s

theorem slotStarted_steady (s : State) (p : Profile) (k : Nat) : Steady s (s.slotStarted p k) := by
  unfold State.slotStarted
  split
  · exact (mapAccount_steady s _).trans (ownSlotStart_steady _ p k)
  · exact mapAccount_steady s _

theorem slotEnded_steady (s : State) (p : Profile) (k : Nat) : Steady s (s.slotEnded p k) := by
  unfold State.slotEnded
  split
  · split
    · exact .refl s
    next f _ =>
      dsimp only
      split
      · exact Steady.trans (t := { s.setFilling f.restrict with copyRead := none }) {} (offerClose_steady _ p _)
      · exact {}
  · exact .refl s

theorem offerCopy_steady (s : State) (p : Profile) (f : Filling) : Steady s (s.offerCopy p f) := by
  unfold State.offerCopy
  split
  · split
    · exact offerClose_steady s p f
    · dsimp only
      split <;> exact {}
  · exact offerClose_steady s p f

theorem offerOutbound_steady (s : State) (p : Profile) (f : Filling) : Steady s (s.offerOutbound p f) := by
  unfold State.offerOutbound
  split
  next w block first words sealed rest hq =>
    split
    · exact Steady.trans (t := { s with outbound := .update w block first words true :: rest })
        { outbound := fun _ hn => by rw [hn] at hq; cases hq } (sendFrame_steady _ p _ _)
    · exact offerCopy_steady s p f
  next =>
    split
    · exact sendFrame_steady s p _ _
    · exact offerCopy_steady s p f
  next => exact offerCopy_steady s p f
  next => exact offerCopy_steady s p f

theorem offerControl_steady (s : State) (p : Profile) (f : Filling) : Steady s (s.offerControl p f) := by
  unfold State.offerControl
  split
  next b rest hq =>
    split
    · exact Steady.trans (t := { s with control := rest })
        { control := fun _ hn => by rw [hn] at hq; cases hq } (sendFrame_steady _ p _ _)
    · exact offerOutbound_steady s p f
  next => exact offerOutbound_steady s p f

theorem offerNext_steady (s : State) (p : Profile) (f : Filling) : Steady s (s.offerNext p f) := by
  unfold State.offerNext
  cases f.step with
  | opening => exact offerOpen_steady s p f
  | control => exact offerControl_steady s p f
  | outbound => exact offerOutbound_steady s p f
  | copy => exact offerCopy_steady s p f
  | close => exact offerClose_steady s p f
  | opened | closing | abandoned => exact .refl s

/-- The clock of a station in RUNNING stands at a position. -/
theorem reach_steady (h : s.clock.position.isSome = true) (n : Nat) : Steady s (s.reach n) := { position := h.symm }

theorem passTo_steady (h : s.clock.position.isSome = true) (n : Nat) : Steady s (s.passTo n) := by
  rw [passTo_movedTo]
  exact { position := h.symm }

theorem position_of_running (h : s.ClockAgrees) (hr : s.station.clockMode = .running) : s.clock.position.isSome = true :=
  h.position.2 hr

theorem driven_steady (h : s.ClockAgrees) (sent : Sending) : Steady s (s.driven sent) where
  receiver := by
    change (if s.station.onLine = true then Receiver.hunting else .off) = .off ↔ _
    rw [h.receiver]
    split
    next hon => simp [hon]
    next hoff => simpa using hoff
  position := by
    unfold State.driven
    dsimp only
    split
    · rfl
    · split
      · rfl
      · exact Option.isSome_map
  quiet := by rw [driven_clock]
  join := by rw [driven_clock]
  standoff := by rw [driven_clock]

theorem endFrame_steady (h : s.ClockAgrees) (sent : Sending) : Steady s (s.endFrame sent) :=
  endFrame_driven (s := s) sent ▸ driven_steady h sent

theorem fenceEvents_steady (s : State) (flushed : Bool) (tags : List Half) : Steady s (s.fenceEvents flushed tags) := by
  have hside := fenceEvents_side s flushed tags
  unfold EventSide at hside
  rw [hside]
  exact {}

theorem completeFences_steady (s : State) : Steady s s.completeFences :=
  Steady.trans (t := { s with outbound := dropFences s.outbound })
    { outbound := fun _ hn => by
        change dropFences s.outbound = []
        rw [hn]
        rfl } (fenceEvents_steady _ _ _)

theorem popOutbound_steady (s : State) : Steady s s.popOutbound :=
  { outbound := fun _ hn => by
      change s.outbound.tail = []
      rw [hn]
      rfl }

theorem goOn_steady (s : State) : Steady s s.goOn := {}

theorem frameLost_steady (s : State) (header : Header) (lost : LostFrame) : Steady s (s.frameLost header lost) := {}

/-! ## Frames under an account -/

theorem setCatchUp_steady {c d : CatchUp} (hc : s.catchUp = some c) (hd : d.window = c.window) :
    Steady s { s with catchUp := some d } :=
  { tries := fun w => by rw [tries_some rfl, tries_some hc, hd] }

theorem queueControl_steady (htakes : s.station.takesPart = true) (f : FrameBody) : Steady s (s.queueControl f) :=
  { control := fun ho => by rw [ho] at htakes; cases htakes }

theorem stray_steady (htakes : s.station.takesPart = true) (sender : StationNo) (w : WindowNo) (isCbeg : Bool) :
    Steady s (s.stray sender w isCbeg) := by
  unfold State.stray
  split
  · split
    · exact queueControl_steady htakes _
    · exact .refl s
  next c hc =>
    split
    · exact .refl s
    · exact (setCatchUp_steady (d := { c with cancelled := addOnce sender c.cancelled }) hc rfl).trans
        (queueControl_steady (s := { s with catchUp := some { c with cancelled := addOnce sender c.cancelled } }) htakes _)

theorem joinerCbeg_steady (htakes : s.station.takesPart = true) (sender : StationNo) (w : WindowNo) :
    Steady s (s.joinerCbeg sender w) := by
  unfold State.joinerCbeg
  split
  · exact stray_steady htakes _ _ _
  next c hc =>
    split
    · exact stray_steady htakes _ _ _
    · split
      · split
        · exact .refl s
        · exact setCatchUp_steady hc rfl
      · split
        · exact setCatchUp_steady hc rfl
        · exact stray_steady htakes _ _ _

theorem joinerCblk_steady (htakes : s.station.takesPart = true) (sender : StationNo) (w : WindowNo) (block : Nat)
    (words : List Word) : Steady s (s.joinerCblk sender w block words) := by
  unfold State.joinerCblk
  split
  next hc =>
    split
    · split
      · exact .refl s
      · exact { tries := fun x => by rw [tries_some rfl, tries_some hc] }
    · exact stray_steady htakes _ _ _
  next => exact stray_steady htakes _ _ _

theorem creqReported_steady (s : State) (w : WindowNo) (attempt : BitVec 3) : Steady s (s.creqReported w attempt) := by
  unfold State.creqReported
  split
  next hc =>
    split
    · exact setCatchUp_steady hc rfl
    · exact .refl s
  next => exact .refl s

theorem reduceTimers_steady (s : State) : Steady s s.reduceTimers := by
  unfold State.reduceTimers
  split
  · exact .refl s
  next c hc =>
    split
    · split <;> exact setCatchUp_steady hc rfl
    · exact .refl s

theorem takeNtc_steady (s : State) (header : Header) (target : Byte) (level : BitVec 3) (tag : Half) :
    Steady s (s.takeNtc header target level tag) := by
  unfold State.takeNtc
  split
  · unfold State.takeNotice
    split
    · exact .refl s
    next a ha =>
      split
      · rw [deliver_eq]
        exact {}
      · split
        · exact { account := fun _ hn => by rw [ha] at hn; cases hn }
        · exact .refl s
  · exact .refl s

/-- What the Apply Unit does with a frame is done in ACTIVE and LEAVING alone. -/
theorem applying_sound {act : State → State} (h : s.Sound) (hact : s.station.takesPart = true → (act s).Sound) :
    (s.applying act).Sound := by
  unfold State.applying
  split
  next htakes => exact hact htakes
  next => exact h

/-- A frame of an account's sender is counted, and then acted on. -/
theorem underAccount_sound {header : Header} {act : State → State} (h : s.Sound)
    (hact : ∀ u, Steady s u → (act u).Sound) : (s.underAccount header act).Sound := by
  unfold State.underAccount
  split
  · exact h
  · split
    · exact h
    · exact hact _ (mapAccount_steady s _)

/-- A change on the copy side does not see the test of R129. -/
theorem sound_copySide (h : s.Sound) (ha : Agrees t) (hs : CopySide s t) : t.Sound :=
  ha.sound ((nextTried_congr (by rw [hs]) (by rw [hs]) (by rw [hs]) (by rw [hs]) (by rw [hs])).trans h.settled)

/-! ## Changes of station state -/

theorem inFlight_none (h : s.ProfileAgrees) (h1 : s.station ≠ .unconfigured) (h2 : s.station ≠ .configured) :
    s.inFlight = none := by
  by_contra hf
  rcases h.inFlight hf with hs | hs
  · exact h1 hs
  · exact h2 hs

/-- From one state with a profile to another, with no CONFIGURE in flight. -/
theorem profileAgrees_move (h : s.ProfileAgrees) (hp : s.profile = some p) (hflight : t.inFlight = none)
    (h1 : t.station ≠ .initialising) (h2 : t.station ≠ .unconfigured) (hprofile : t.profile = s.profile := by rfl)
    (hinit : t.initPass = s.initPass := by rfl) : t.ProfileAgrees where
  initPass := by
    have hsome : s.profile ≠ none := by rw [hp]; simp
    have hs : s.station ≠ .initialising := fun hs => hsome (h.installed.2 (.inl hs))
    rw [hinit]
    exact iff_of_false (fun hne => hs (h.initPass.1 hne)) h1
  installed := by
    rw [hprofile, hp]
    exact iff_of_false (by simp) fun hs => hs.elim h1 h2
  limit q hq := h.limit q (by rw [← hprofile]; exact hq)
  inFlight hne := absurd hflight hne

/-- From one state off the line's taking part to another, with the windows and the catch-up units as they were. -/
theorem Agrees.idle (h : Agrees s) (ho : s.station.takesPart = false) (hot : t.station.takesPart = false)
    (hclock : t.ClockAgrees) (hprofile : t.ProfileAgrees) (hroster : t.station.clockMode = .stopped → t.roster = [])
    (hsame : t.profile = s.profile := by rfl) (hwindows : t.windows = s.windows := by rfl)
    (hresync : t.resync = s.resync := by rfl) (hcatchUp : t.catchUp = s.catchUp := by rfl)
    (hserving : t.serving = s.serving := by rfl) (hturn : t.turn = s.turn := by rfl)
    (houtbound : t.outbound = s.outbound := by rfl) (hcontrol : t.control = s.control := by rfl)
    (haccount : t.account = s.account := by rfl) : Agrees t := by
  have hna : s.station ≠ .active := fun ha => by rw [ha] at ho; cases ho
  have hq := h.quiet
  have hw := h.windows
  refine ⟨hclock, ⟨fun _ => ?_, fun _ => ?_, fun _ => ?_, fun _ => ?_, fun _ => ?_, fun _ => ?_, fun _ => ?_, hroster⟩,
    hprofile, ⟨fun w => ?_, fun w => ?_, fun ha => ?_, ?_, fun _ w => ?_, fun w => ?_, fun w n hn => ?_⟩,
    servingAgrees_congr h.serving hserving hturn hwindows⟩
  · rw [houtbound]; exact hq.outbound ho
  · rw [hcontrol]; exact hq.control ho
  · rw [haccount]; exact hq.account ho
  · rw [hresync]; exact hq.resync hna
  · rw [hcatchUp]; exact hq.catchUp hna
  · rw [hserving]; exact hq.serving hna
  · rw [hturn]; exact hq.turn hna
  · rw [window_congr (s := s) hwindows]; exact hw.held w
  · rw [window_congr (s := s) hwindows, hcatchUp]; exact hw.catchingUp w
  · rw [ha] at hot; cases hot
  · rw [hresync]; exact hw.listedOnce
  · rw [window_congr (s := s) hwindows]; exact hw.offLine ho w
  · rw [window_congr (s := s) hwindows, attemptLimit_congr hsame]; exact hw.attempts w
  · rw [window_congr (s := s) hwindows] at hn
    exact absurd (hw.marks w n hn).1 hna

/-- Off the line every held window is STALE and nothing of the line's catch-up is left. -/
theorem cameOff_agrees {next : StationState} {cause : StationCause} (h : Agrees s) (htakes : s.station.takesPart = true)
    (hp : s.profile = some p) (hnext : next = .listening ∨ next = .standoff ∨ next = .configured)
    (hc : CameOff p next cause s t) : Agrees t := by
  have hstation : t.station = next := by rw [hc.frame]
  have hcatchUp : t.catchUp = none := by rw [hc.frame]
  have hresync : t.resync = [] := by rw [hc.frame]
  have hserving : t.serving = [] := by rw [hc.frame]
  have hturn : t.turn = none := by rw [hc.frame]
  have hlimit : t.attemptLimit = s.attemptLimit := attemptLimit_congr (by rw [hc.frame])
  have hon : s.station.onLine = true := by
    rcases takesPart_iff.1 htakes with hs | hs <;> rw [hs] <;> rfl
  have hidle : s.inFlight = none := by
    rcases takesPart_iff.1 htakes with hs | hs <;>
      exact inFlight_none h.profile (by rw [hs]; decide) (by rw [hs]; decide)
  have hflight : t.inFlight = none := by
    rw [hc.frame]
    exact hidle
  have hot : t.station.takesPart = false := by rw [hstation]; rcases hnext with rfl | rfl | rfl <;> rfl
  have hnone (w : WindowNo) := tries_none hcatchUp w
  refine ⟨⟨?_, ?_, ?_, ?_, ?_⟩, ⟨?_, ?_, ?_, ?_, ?_, ?_, ?_, ?_⟩,
    profileAgrees_move h.profile hp hflight ?_ ?_ (by rw [hc.frame]) (by rw [hc.frame]),
    windowsAgree_iff.2 ⟨fun w => ?_, by rw [hresync]; exact List.nodup_nil⟩, ⟨?_, ?_, ?_⟩⟩
  · rw [hc.clock, hstation]
    rcases hnext with rfl | rfl | rfl <;> exact iff_of_false Bool.false_ne_true (by decide)
  · rw [hc.clock, hstation]; rcases hnext with rfl | rfl | rfl <;> simp
  · rw [hc.clock, hstation]; rcases hnext with rfl | rfl | rfl <;> simp
  · rw [hc.clock, hstation]; rcases hnext with rfl | rfl | rfl <;> simp
  · have hr := receiver_ne_off h.clock hon
    have hreceiver : t.receiver = if next = .configured then .off else s.receiver := by rw [hc.frame]
    rw [hreceiver, hstation]
    rcases hnext with rfl | rfl | rfl
    · exact iff_of_false hr (by decide)
    · exact iff_of_false hr (by decide)
    · exact iff_of_true rfl rfl
  · intro _; rw [hc.frame]
  · intro _; rw [hc.frame]
  · intro _; rw [hc.frame]
  · intro _; exact hresync
  · intro _; exact hcatchUp
  · intro _; exact hserving
  · intro _; exact hturn
  · rw [hc.roster, hstation]; rcases hnext with rfl | rfl | rfl <;> simp [StationState.clockMode]
  · rw [hstation]; rcases hnext with rfl | rfl | rfl <;> decide
  · rw [hstation]; rcases hnext with rfl | rfl | rfl <;> decide
  · have hfits := (windowsAgree_iff.1 h.windows).1 w
    have hna : t.station ≠ .active := fun ha => by rw [ha] at hot; cases hot
    rw [hc.windows, hlimit]
    by_cases hheld : (s.window w).holding = none
    · have hunheld := hfits.held.1 hheld
      have hcount := hfits.attempts
      rw [hunheld] at hcount
      rw [if_pos hheld]
      refine ⟨hfits.held, iff_of_false (by rw [hunheld]; decide) (hnone w), fun ha => absurd ha hna, fun _ => .inl hunheld,
        hfits.attempts, fun n hn => ?_⟩
      have := (hfits.marks n hn).2.1
      rw [hunheld] at this
      cases this
    · rw [if_neg hheld]
      exact ⟨iff_of_false hheld (by simp), iff_of_false (by simp) (hnone w), fun ha => absurd ha hna,
        fun _ => .inr ⟨rfl, rfl⟩, h.limit_pos htakes, fun n hn => by cases hn⟩
  · rw [hserving]; exact List.nodup_nil
  · intro pair hpair; rw [hturn] at hpair; cases hpair
  · intro r hr; rw [hserving] at hr; cases hr

theorem Agrees.comeOff (h : Agrees s) (htakes : s.station.takesPart = true) (hp : s.profile = some p) {next : StationState}
    (cause : StationCause) (hnext : next = .listening ∨ next = .standoff ∨ next = .configured) :
    Agrees (s.comeOff p next cause) := cameOff_agrees h htakes hp hnext (comeOff_off p next cause hp hnext)

theorem comeOff_station {next : StationState} (cause : StationCause) (hp : s.profile = some p)
    (hnext : next = .listening ∨ next = .standoff ∨ next = .configured) : (s.comeOff p next cause).station = next := by
  rw [(comeOff_off p next cause hp hnext).frame]

theorem Agrees.takeSyncLoss (h : Agrees s) : Agrees s.takeSyncLoss := by
  unfold State.takeSyncLoss
  split
  · exact h
  next p hp =>
    split
    next hc => exact h.comeOff (Bool.and_eq_true _ _ ▸ hc).2 hp .syncLoss (.inl rfl)
    next => exact h

/-- Out of the states that take part, every window is as R36 has it. -/
theorem Agrees.idle_window (h : Agrees s) (ho : s.station.takesPart = false) (w : WindowNo) :
    (s.window w).coldMark = none ∧ (s.window w).attempts = 0 ∧
      ((s.window w).holding ≠ none → (s.window w).currency = .stale) := by
  have hna : s.station ≠ .active := fun ha => by rw [ha] at ho; cases ho
  refine ⟨?_, ?_, fun hheld => ?_⟩
  · by_contra hne
    obtain ⟨n, hn⟩ := Option.ne_none_iff_exists'.1 hne
    exact hna (h.windows.marks w n hn).1
  · rcases h.windows.offLine ho w with hw | hw
    · have := h.windows.attempts w
      rwa [hw] at this
    · exact hw.2
  · rcases h.windows.offLine ho w with hw | hw
    · exact absurd ((h.windows.held w).2 hw) hheld
    · exact hw.1

/-- The station becomes ACTIVE with its clock running, each window a held one in one currency or not held. -/
theorem activated_agrees (h : Agrees s) (ho : s.station.takesPart = false) (hp : s.profile = some p)
    (hactive : t.station = .active) (hclock : t.ClockAgrees) (hflight : s.inFlight = none)
    (hwindow : ∀ w, Fits .active s.attemptLimit False (w ∈ t.resync) (t.window w)) (hnodup : t.resync.Nodup)
    (hsame : t.profile = s.profile := by rfl) (hinit : t.initPass = s.initPass := by rfl)
    (hfl : t.inFlight = s.inFlight := by rfl) (hcatchUp : t.catchUp = s.catchUp := by rfl)
    (hserving : t.serving = s.serving := by rfl) (hturn : t.turn = s.turn := by rfl) : Agrees t := by
  have hna : s.station ≠ .active := fun ha => by rw [ha] at ho; cases ho
  have hnone : t.catchUp = none := hcatchUp.trans (h.quiet.catchUp hna)
  have hempty : t.serving = [] := hserving.trans (h.quiet.serving hna)
  have hstill : t.turn = none := hturn.trans (h.quiet.turn hna)
  have htakes := takesPart_of_active hactive
  refine ⟨hclock, ⟨fun ho => ?_, fun ho => ?_, fun ho => ?_, fun ha => absurd hactive ha, fun ha => absurd hactive ha,
      fun ha => absurd hactive ha, fun ha => absurd hactive ha, fun hs => ?_⟩,
    profileAgrees_move h.profile hp (hfl.trans hflight) (by rw [hactive]; decide) (by rw [hactive]; decide) hsame hinit,
    windowsAgree_iff.2 ⟨fun w => ?_, hnodup⟩, ⟨?_, ?_, ?_⟩⟩
  · rw [ho] at htakes; cases htakes
  · rw [ho] at htakes; cases htakes
  · rw [ho] at htakes; cases htakes
  · rw [hactive] at hs; cases hs
  · rw [hactive, attemptLimit_congr hsame]
    exact (hwindow w).of_iff (iff_of_false (tries_none hnone w) id) fun _ => Iff.rfl
  · rw [hempty]; exact List.nodup_nil
  · intro pair hpair; rw [hstill] at hpair; cases hpair
  · intro r hr; rw [hempty] at hr; cases hr

/-- The clock of one state on the line serves another that is neither LISTENING nor STANDOFF and runs it alike. -/
theorem clockAgrees_move (h : s.ClockAgrees) (hmode : t.station.clockMode = s.station.clockMode)
    (hl : t.station = .listening ↔ s.station = .listening) (hs : t.station = .standoff ↔ s.station = .standoff)
    (hon : t.station.onLine = s.station.onLine) (hclock : t.clock = s.clock := by rfl)
    (hreceiver : t.receiver = s.receiver := by rfl) : t.ClockAgrees where
  position := by rw [hclock, hmode]; exact h.position
  quiet := by rw [hclock, hl]; exact h.quiet
  join := by rw [hclock, hl]; exact h.join
  standoff := by rw [hclock, hs]; exact h.standoff
  receiver := by rw [hreceiver, hon]; exact h.receiver

/-- One event for each held window, in window-number order (R32). -/
theorem coldEvents_reports (s : State) : Reports s s.coldEvents (s.heldWindows.map fun w =>
    ⟨subjectOf w.val, s.clock.round, .windowState (s.window w).currency .current .coldStart 0 none⟩) := by
  have hfold : ∀ (l : List WindowNo) (t : State), t.clock.round = s.clock.round → Reports t
      (l.foldl (fun t w => t.event (subjectOf w.val) (.windowState (s.window w).currency .current .coldStart 0 none)) t)
      (l.map fun w => ⟨subjectOf w.val, s.clock.round, .windowState (s.window w).currency .current .coldStart 0 none⟩) := by
    intro l
    induction l with
    | nil => exact fun t _ => Reports.refl t
    | cons w l ih =>
      intro t hround
      rw [List.foldl_cons, List.map_cons, ← hround]
      have htail := ih (t.event (subjectOf w.val) (.windowState (s.window w).currency .current .coldStart 0 none)) hround
      rw [← hround] at htail
      exact (event_reports t _ _).trans htail
  exact hfold s.heldWindows s rfl

/-- What an intact COLD OPEN makes of the station (R88, R32). -/
theorem coldStartIntact_started (s : State) :
    (∀ w, s.coldStartIntact.window w = (s.window w).coldCurrent) ∧
    Reports s s.coldStartIntact (⟨s.ownSubject, s.clock.round, .stationState s.station .active .coldOpenIntact 0⟩ ::
      s.heldWindows.map fun w =>
        ⟨subjectOf w.val, s.clock.round, .windowState (s.window w).currency .current .coldStart 0 none⟩) ∧
    s.coldStartIntact = { s with
      station := .active, openFailures := 0, windows := s.coldStartIntact.windows, events := s.coldStartIntact.events
      eventOverflow := s.coldStartIntact.eventOverflow } := by
  have hentered : s.enter .active .coldOpenIntact 0 = { s with
      station := .active, events := (s.enter .active .coldOpenIntact 0).events
      eventOverflow := (s.enter .active .coldOpenIntact 0).eventOverflow } := rfl
  have hreports := (enter_reports s .active .coldOpenIntact 0).trans (coldEvents_reports (s.enter .active .coldOpenIntact 0))
  have hside := coldEvents_side (s.enter .active .coldOpenIntact 0)
  have hheld : (s.enter .active .coldOpenIntact 0).heldWindows = s.heldWindows := rfl
  have hwindows (w : WindowNo) : (s.enter .active .coldOpenIntact 0).window w = s.window w := rfl
  have hround : (s.enter .active .coldOpenIntact 0).clock.round = s.clock.round := rfl
  rw [hheld, hround] at hreports
  simp only [hwindows] at hreports
  unfold State.coldStartIntact
  generalize (s.enter .active .coldOpenIntact 0).coldEvents = u at *
  have hu : u = { s with station := .active, events := u.events, eventOverflow := u.eventOverflow } := by
    rw [hside]
    rfl
  have hat (w : WindowNo) := mapWindows_window u WindowRecord.coldCurrent w
  have hmapped : u.mapWindows WindowRecord.coldCurrent =
      { u with windows := (u.mapWindows WindowRecord.coldCurrent).windows } := rfl
  generalize u.mapWindows WindowRecord.coldCurrent = y at *
  rw [hmapped]
  refine ⟨fun w => ?_, hreports.of_eq rfl rfl, by rw [hu]⟩
  exact (hat w).trans (congrArg WindowRecord.coldCurrent (window_congr s (by rw [hu]) w))

theorem Agrees.coldStartIntact (h : Agrees s) (hs : s.station = .coldStart) : Agrees s.coldStartIntact := by
  have ho : s.station.takesPart = false := by rw [hs]; rfl
  obtain ⟨p, hp⟩ : ∃ p, s.profile = some p := by
    refine Option.ne_none_iff_exists'.1 fun hn => ?_
    rcases h.profile.installed.1 hn with hx | hx <;> rw [hs] at hx <;> cases hx
  obtain ⟨hat, -, hframe⟩ := coldStartIntact_started s
  generalize s.coldStartIntact = t at *
  have hactive : t.station = .active := by rw [hframe]
  have hresync : t.resync = [] := by rw [hframe]; exact h.quiet.resync (by rw [hs]; decide)
  refine activated_agrees h ho hp hactive (clockAgrees_move h.clock ?_ ?_ ?_ ?_ (by rw [hframe]) (by rw [hframe]))
    (inFlight_none h.profile (by rw [hs]; decide) (by rw [hs]; decide)) (fun w => ?_) (by rw [hresync]; exact List.nodup_nil)
    (by rw [hframe]) (by rw [hframe]) (by rw [hframe]) (by rw [hframe]) (by rw [hframe]) (by rw [hframe])
  · rw [hactive, hs]; rfl
  · rw [hactive, hs]; decide
  · rw [hactive, hs]; decide
  · rw [hactive, hs]; rfl
  · obtain ⟨hmark, hcount, hstale⟩ := h.idle_window ho w
    rw [hat, hresync]
    unfold WindowRecord.coldCurrent
    split
    next hheld =>
      refine ⟨iff_of_false (isHeld_iff.1 hheld) (by simp), by simp, fun _ => by simp, fun hf => (nomatch hf), rfl,
        fun n hn => ?_⟩
      cases hn
      exact ⟨rfl, rfl, by decide, by decide⟩
    next hheld =>
      have hnone : (s.window w).holding = none := by simpa [WindowRecord.isHeld] using hheld
      have hunheld := (h.windows.held w).1 hnone
      exact ⟨h.windows.held w, by simp [hunheld], fun _ => by simp [hunheld], fun hf => (nomatch hf), h.windows.attempts w,
        fun n hn => by rw [hmark] at hn; cases hn⟩

/-- A profile is in force in every state on the line. -/
theorem Agrees.profile_of_onLine (h : Agrees s) (hon : s.station.onLine = true) : ∃ p, s.profile = some p := by
  refine Option.ne_none_iff_exists'.1 fun hn => ?_
  rcases h.profile.installed.1 hn with hx | hx <;> rw [hx] at hon <;> cases hon

/-- The clock and the receiver as a station state has them. -/
theorem clockAgrees_of (next : StationState) (hreceiver : t.receiver = .off ↔ next.onLine = false)
    (hstation : t.station = next := by rfl)
    (hposition : t.clock.position.isSome = decide (next.clockMode = .running) := by rfl)
    (hquiet : t.clock.quiet.isSome = decide (next = .listening) := by rfl)
    (hjoin : t.clock.join.isSome = decide (next = .listening) := by rfl)
    (hstandoff : t.clock.standoff.isSome = decide (next = .standoff) := by rfl) : t.ClockAgrees := by
  constructor <;> rw [hstation]
  · rw [hposition, decide_eq_true_eq]
  · rw [hquiet, decide_eq_true_eq]
  · rw [hjoin, decide_eq_true_eq]
  · rw [hstandoff, decide_eq_true_eq]
  · exact hreceiver

/-- From one state that takes no part to another beyond UNCONFIGURED: the clock and the receiver stand as the new state has
them, and the windows and the catch-up units as they were. -/
theorem Agrees.moved (h : Agrees s) (next : StationState) (hp : s.profile = some p) (hflight : s.inFlight = none)
    (ho : s.station.takesPart = false)
    (hnext : next = .configured ∨ next = .listening ∨ next = .coldStart ∨ next = .standoff ∨ next = .muted)
    (hreceiver : t.receiver = .off ↔ next.onLine = false) (hstation : t.station = next := by rfl)
    (hposition : t.clock.position.isSome = decide (next.clockMode = .running) := by rfl)
    (hquiet : t.clock.quiet.isSome = decide (next = .listening) := by rfl)
    (hjoin : t.clock.join.isSome = decide (next = .listening) := by rfl)
    (hstandoff : t.clock.standoff.isSome = decide (next = .standoff) := by rfl)
    (hroster : next = .configured → t.roster = [] := by exact fun hc => nomatch hc)
    (hsame : t.profile = s.profile := by rfl) (hinit : t.initPass = s.initPass := by rfl)
    (hfl : t.inFlight = s.inFlight := by rfl) (hwindows : t.windows = s.windows := by rfl)
    (hresync : t.resync = s.resync := by rfl) (hcatchUp : t.catchUp = s.catchUp := by rfl)
    (hserving : t.serving = s.serving := by rfl) (hturn : t.turn = s.turn := by rfl)
    (houtbound : t.outbound = s.outbound := by rfl) (hcontrol : t.control = s.control := by rfl)
    (haccount : t.account = s.account := by rfl) : Agrees t := by
  have hidle : t.station.takesPart = false := by
    rw [hstation]; rcases hnext with rfl | rfl | rfl | rfl | rfl <;> rfl
  have hpast : t.station ≠ .initialising ∧ t.station ≠ .unconfigured := by
    rw [hstation]; rcases hnext with rfl | rfl | rfl | rfl | rfl <;> decide
  refine h.idle ho hidle (clockAgrees_of next hreceiver hstation hposition hquiet hjoin hstandoff)
    (profileAgrees_move h.profile hp (hfl.trans hflight) hpast.1 hpast.2 hsame hinit)
    (fun hs => hroster ?_) hsame hwindows hresync hcatchUp hserving hturn houtbound hcontrol haccount
  rw [hstation] at hs
  rcases hnext with rfl | rfl | rfl | rfl | rfl
  · rfl
  all_goals cases hs

/-- Out of UNCONFIGURED and CONFIGURED nothing is in flight. -/
theorem Agrees.inFlight_of_onLine (h : Agrees s) (hon : s.station.onLine = true) : s.inFlight = none :=
  inFlight_none h.profile (fun hs => by rw [hs] at hon; cases hon) fun hs => by rw [hs] at hon; cases hon

theorem position_of_free (h : s.ClockAgrees) (hm : s.station.clockMode ≠ .running) : s.clock.position.isSome = false := by
  simpa using mt h.position.1 hm

theorem Agrees.coldStartLost (h : Agrees s) (hs : s.station = .coldStart) (p : Profile) : Agrees (s.coldStartLost p) := by
  have hon : s.station.onLine = true := by rw [hs]; rfl
  obtain ⟨q, hq⟩ := h.profile_of_onLine hon
  have hr := receiver_ne_off h.clock hon
  exact h.moved .standoff hq (h.inFlight_of_onLine hon) (by rw [hs]; rfl) (by decide)
    (iff_of_false hr (by decide))

theorem Agrees.enterColdStart (h : Agrees s) (hs : s.station = .listening) (p : Profile) : Agrees (s.enterColdStart p) := by
  have hon : s.station.onLine = true := by rw [hs]; rfl
  obtain ⟨q, hq⟩ := h.profile_of_onLine hon
  have hr := receiver_ne_off h.clock hon
  unfold State.enterColdStart
  dsimp only
  refine Agrees.steady ?_ (slotStarted_steady _ p _)
  exact h.moved .coldStart hq (h.inFlight_of_onLine hon) (by rw [hs]; rfl) (by decide)
    (iff_of_false hr (by decide))

theorem Agrees.joinExpired (h : Agrees s) (hs : s.station = .listening) (p : Profile) : Agrees (s.joinExpired p) := by
  have hon : s.station.onLine = true := by rw [hs]; rfl
  obtain ⟨q, hq⟩ := h.profile_of_onLine hon
  have hr := receiver_ne_off h.clock hon
  have hfree := position_of_free h.clock (by rw [hs]; decide)
  unfold State.joinExpired
  split
  · exact h.moved .muted hq (h.inFlight_of_onLine hon) (by rw [hs]; rfl) (by decide)
      (iff_of_false hr (by decide))
      (hposition := hfree)
  · exact h.steady { join := (h.clock.join.2 hs).symm }

theorem Agrees.standoffExpired (h : Agrees s) (hs : s.station = .standoff) (p : Profile) : Agrees (s.standoffExpired p) := by
  have hon : s.station.onLine = true := by rw [hs]; rfl
  obtain ⟨q, hq⟩ := h.profile_of_onLine hon
  have hr := receiver_ne_off h.clock hon
  have hfree := position_of_free h.clock (by rw [hs]; decide)
  exact h.moved .listening hq (h.inFlight_of_onLine hon) (by rw [hs]; rfl) (by decide)
    (iff_of_false hr (by decide))
    (hposition := hfree)

theorem Agrees.enterListening (h : Agrees s) (hs : s.station = .configured) (hp : s.profile = some p)
    (hflight : s.inFlight = none) : Agrees (s.enterListening p) := by
  have hfree := position_of_free h.clock (by rw [hs]; decide)
  exact h.moved .listening hp hflight (by rw [hs]; rfl) (by decide) (iff_of_false (fun hm => nomatch hm) (by decide))
    (hposition := hfree)

theorem Agrees.leaveAtOnce (h : Agrees s) (hs : s.station = .listening ∨ s.station = .standoff ∨ s.station = .muted) :
    Agrees s.leaveAtOnce := by
  have hstation : s.station.onLine = true ∧ s.station.takesPart = false ∧ s.station.clockMode ≠ .running := by
    rcases hs with hs | hs | hs <;> rw [hs] <;> decide
  obtain ⟨hon, ho, hmode⟩ := hstation
  obtain ⟨q, hq⟩ := h.profile_of_onLine hon
  have hfree := position_of_free h.clock hmode
  exact h.moved .configured hq (h.inFlight_of_onLine hon) ho (by decide) (iff_of_true rfl rfl)
    (hposition := hfree) (hroster := fun _ => rfl)

theorem Agrees.coldLeaveDone (h : Agrees s) (hs : s.station = .coldStart) : Agrees s.coldLeaveDone := by
  have hon : s.station.onLine = true := by rw [hs]; rfl
  obtain ⟨q, hq⟩ := h.profile_of_onLine hon
  exact h.moved .configured hq (h.inFlight_of_onLine hon) (by rw [hs]; rfl) (by decide) (iff_of_true rfl rfl)
    (hroster := fun _ => rfl)

/-! ## The reception of an OPEN -/

theorem mem_heldWindows {w : WindowNo} : w ∈ s.heldWindows ↔ (s.window w).holding ≠ none := by
  unfold State.heldWindows
  rw [List.mem_filter]
  exact (and_iff_right (List.mem_finRange w)).trans isHeld_iff

/-- The station is ACTIVE with every held window STALE and listed (R85, R31). -/
theorem Agrees.joinLine (h : Agrees s) (hs : s.station = .listening) (hp : s.profile = some p) (header : Header) :
    Agrees (s.joinLine p header) := by
  have hon : s.station.onLine = true := by rw [hs]; rfl
  have ho : s.station.takesPart = false := by rw [hs]; rfl
  have hr := receiver_ne_off h.clock hon
  have hflight := h.inFlight_of_onLine hon
  have hlimit : 0 < s.attemptLimit := by
    unfold State.attemptLimit
    rw [hp]
    exact h.profile.limit p hp
  have hfits : ∀ w, Fits .active s.attemptLimit False (w ∈ s.heldWindows) (s.window w) := fun w => by
    obtain ⟨hmark, hcount, hstale⟩ := h.idle_window ho w
    refine ⟨h.windows.held w, ?_, fun _ => ?_, fun hf => (nomatch hf), h.windows.attempts w, fun n hn => ?_⟩
    · rw [iff_false]
      rcases h.windows.offLine ho w with hw | hw
      · rw [hw]; decide
      · rw [hw.1]; decide
    · rw [mem_heldWindows]
      refine ⟨hstale, fun hc hn => ?_⟩
      rw [(h.windows.held w).1 hn] at hc
      cases hc
    · rw [hmark] at hn; cases hn
  have hnodup : s.heldWindows.Nodup := (List.nodup_finRange 32).filter _
  exact activated_agrees h ho hp rfl (clockAgrees_of .active (iff_of_false hr (by decide))) hflight hfits hnodup

theorem Agrees.openForeign (h : Agrees s) (header : Header) (leaving : Bool) : Agrees (s.openForeign header leaving) := by
  have hmarked : Agrees { s with clock := { s.clock with foreignMark := s.clock.foreignMark || s.clock.join.isSome } } := h.congr
  exact (hmarked.depart _ _ _).takeOpen _ _ _

theorem Agrees.openListening (h : Agrees s) (hs : s.station = .listening) (hp : s.profile = some p) (header : Header)
    (digest : Half) (cold leaving : Bool) (current : WindowSet) :
    Agrees (s.openListening p header digest cold leaving current) := by
  unfold State.openListening
  split
  · exact h.openForeign _ _
  · split
    · exact h.rosterSeen _ _ _
    · exact ((h.joinLine hs hp header).rosterHeard _ _ _ _).takeOpen _ _ _

theorem testRound_steady (s : State) : Steady s s.testRound := by
  unfold State.testRound
  split
  · exact {}
  · exact .refl s

theorem Agrees.runTask (h : Agrees s) (task : RoundEndTask) : Agrees (s.runTask task) := by
  cases task with
  | misalignedTest => exact (h.steady (testRound_steady s)).takeSyncLoss
  | silence => exact h.examineRoster.departSilent
  | coldMarks => exact h.reduceColdMarks
  | resyncTimers => exact (h.steady (reduceTimers_steady s)).expireWait.tryBegin.expireStall.tryBegin
  | offerLapse => exact h.lapseOffers

theorem Agrees.passRoundEnd (h : Agrees s) (hposition : s.clock.position.isSome = true) (order : List RoundEndTask) :
    Agrees (s.passRoundEnd order) := by
  unfold State.passRoundEnd
  have hended : Agrees s.endRound := h.steady { position := hposition.symm }
  generalize s.endRound = u at hended
  induction wholeOrder order generalizing u with
  | nil => exact hended
  | cons task l ih => exact ih _ (hended.runTask task)

/-- The happenings before the round end leave the clock running. -/
theorem raise_running (h : Agrees s) (hposition : s.clock.position.isSome = true) (order : List RoundEndTask) {x : Happening}
    (hx : x ≠ .roundEnd) : Agrees (State.raise p order s x) ∧ (State.raise p order s x).clock.position.isSome = true := by
  cases x with
  | slotEnd k =>
    have hsteady := slotEnded_steady s p k
    exact ⟨h.steady hsteady, hsteady.position.trans hposition⟩
  | slotStart k =>
    have hsteady := slotStarted_steady s p k
    exact ⟨h.steady hsteady, hsteady.position.trans hposition⟩
  | graceExpiry k =>
    have hside : ApplySide s (s.graceExpired k).tryBegin := (graceExpired_side s k).trans (tryBegin_side _).toApplySide
    refine ⟨(h.graceExpired k).tryBegin, ?_⟩
    change (s.graceExpired k).tryBegin.clock.position.isSome = true
    rw [hside]
    exact hposition
  | roundEnd => exact absurd rfl hx

theorem raiseAll_running (order : List RoundEndTask) : ∀ (l : List Happening) {s : State}, Agrees s →
    s.clock.position.isSome = true → (∀ x ∈ l, x ≠ .roundEnd) →
    Agrees (l.foldl (State.raise p order) s) ∧ (l.foldl (State.raise p order) s).clock.position.isSome = true
  | [], _, h, hposition, _ => ⟨h, hposition⟩
  | x :: l, _, h, hposition, hl => by
    obtain ⟨hx, hxp⟩ := raise_running (p := p) h hposition order (hl x List.mem_cons_self)
    exact raiseAll_running order l hx hxp fun y hy => hl y (List.mem_cons_of_mem x hy)

/-- The round end stands behind the other happenings of its instant, so that only it can find the clock stopped. -/
theorem Agrees.raiseAll (h : Agrees s) (hposition : s.clock.position.isSome = true) (order : List RoundEndTask) (n : Nat) :
    Agrees ((p.happenings n).foldl (State.raise p order) s) := by
  have hslots : ∀ x ∈ ((List.range p.slots).map (p.slotHappenings n)).flatten, x ≠ .roundEnd := fun x hx => by
    obtain ⟨l, hl, hxl⟩ := List.mem_flatten.1 hx
    obtain ⟨k, -, rfl⟩ := List.mem_map.1 hl
    rintro rfl
    simp [Profile.slotHappenings] at hxl
  obtain ⟨hran, hstill⟩ := raiseAll_running (p := p) order _ h hposition hslots
  rw [Profile.happenings, List.foldl_append]
  split
  · exact hran.passRoundEnd hstill order
  · exact hran

theorem Agrees.moveForward (order : List RoundEndTask) : ∀ (n : Nat) {s : State}, Agrees s → Agrees (State.moveForward p order n s)
  | 0, _, h => h
  | n + 1, s, h => by
    rw [State.moveForward]
    split
    · exact h
    next at' hat =>
      have hsome : s.clock.position.isSome = true := by rw [hat]; rfl
      exact Agrees.moveForward order n ((h.steady (reach_steady hsome _)).raiseAll rfl order _)

theorem Agrees.align (h : Agrees s) (hposition : s.clock.position.isSome = true) (k instant : Nat) (round : Half)
    (order : List RoundEndTask) : Agrees (s.align p k instant round order) := by
  have hpassed := passTo_steady hposition instant
  have hmarked : Agrees (s.passTo instant).markOnTime := (h.steady hpassed).congr
  have hsome : (s.passTo instant).markOnTime.clock.position.isSome = true := hpassed.position.trans hposition
  unfold State.align
  dsimp only
  generalize (s.passTo instant).markOnTime = u at *
  split
  · exact (Agrees.moveForward order _ hmarked).congr
  · exact (hmarked.steady (reach_steady hsome _)).congr

theorem Agrees.openRunning (h : Agrees s) (hposition : s.clock.position.isSome = true) (header : Header) (digest : Half)
    (cold leaving : Bool) (current : WindowSet) (instant : Nat) (order : List RoundEndTask) :
    Agrees (s.openRunning p header digest cold leaving current instant order) := by
  have hpassed : Agrees (s.passTo instant) := h.steady (passTo_steady hposition instant)
  unfold State.openRunning
  split
  · exact hpassed.openForeign _ _
  · split
    · exact (((h.align hposition _ _ _ _).contest _ _ _ _).rosterHeard _ _ _ _).takeOpen _ _ _
    · have hmarked : Agrees (s.passTo instant).markMisaligned := hpassed.congr
      exact ((hmarked.contest _ _ _ _).rosterSeen _ _ _).takeOpen _ _ _

theorem Agrees.openReported (h : Agrees s) (header : Header) (digest : Half) (cold leaving : Bool) (current : WindowSet)
    (instant : Nat) (order : List RoundEndTask) : Agrees (s.openReported header digest cold leaving current instant order) := by
  have hrunning (hm : s.station.clockMode = .running) := position_of_running h.clock hm
  unfold State.openReported
  split
  · exact h
  next p hp =>
    cases hs : s.station with
    | listening => exact h.openListening hs hp _ _ _ _ _
    | coldStart | active | leaving => exact h.openRunning (hrunning (by rw [hs]; rfl)) _ _ _ _ _ _ _
    | _ => exact h

/-! ## LEAVE in ACTIVE, the init pass and CONFIGURE -/

theorem Agrees.enterLeaving (h : Agrees s) (hs : s.station = .active) : Agrees s.enterLeaving := by
  obtain ⟨p, hp⟩ := h.profile_of_onLine (by rw [hs]; rfl)
  have hflight := h.inFlight_of_onLine (by rw [hs]; rfl)
  obtain ⟨hwindow, -, -, -, -, hframe⟩ := enterLeaving_left s
  generalize s.enterLeaving = t at *
  have hstation : t.station = .leaving := by rw [hframe]
  have hcatchUp : t.catchUp = none := by rw [hframe]
  have hresync : t.resync = [] := by rw [hframe]
  have hserving : t.serving = [] := by rw [hframe]
  have hturn : t.turn = none := by rw [hframe]
  have htakes : t.station.takesPart ≠ false := by rw [hstation]; decide
  refine ⟨clockAgrees_move h.clock (by rw [hstation, hs]; rfl) (by rw [hstation, hs]; decide) (by rw [hstation, hs]; decide)
      (by rw [hstation, hs]; rfl) (by rw [hframe]) (by rw [hframe]),
    ⟨fun ho => absurd ho htakes, fun ho => absurd ho htakes, fun ho => absurd ho htakes, fun _ => hresync, fun _ => hcatchUp,
      fun _ => hserving, fun _ => hturn, fun hm => ?_⟩,
    profileAgrees_move h.profile hp ?_ (by rw [hstation]; decide) (by rw [hstation]; decide) (by rw [hframe]) (by rw [hframe]),
    windowsAgree_iff.2 ⟨fun w => ?_, by rw [hresync]; exact List.nodup_nil⟩, ⟨?_, ?_, ?_⟩⟩
  · rw [hstation] at hm; cases hm
  · rw [hframe]; exact hflight
  · have hfits := (windowsAgree_iff.1 h.windows).1 w
    have hno := tries_none hcatchUp w
    rw [hwindow, hstation, attemptLimit_congr (s := s) (by rw [hframe])]
    by_cases hc : s.catchUp.map CatchUp.window = some w
    · obtain ⟨c, hcatch, rfl⟩ := Option.map_eq_some_iff.1 hc
      have hcatching := (h.windows.catchingUp c.window).2 ⟨c, hcatch, rfl⟩
      have hcount := hfits.attempts
      rw [hcatching] at hcount
      simp only [if_pos hc]
      exact fits_taking rfl (holding_ne_none h.windows (by rw [hcatching]; decide)) (by simp) (by simpa using hno)
        (fun hl => nomatch hl) hcount rfl
    · simp only [if_neg hc]
      refine ⟨hfits.held, iff_of_false (fun hcatching => hc ?_) hno, fun hl => (nomatch hl), fun hl => (nomatch hl),
        hfits.attempts, fun n hn => (nomatch hn)⟩
      obtain ⟨c, hcatch, hw⟩ := hfits.catchingUp.1 hcatching
      rw [hcatch, Option.map_some, hw]
  · rw [hserving]; exact List.nodup_nil
  · intro pair hpair; rw [hturn] at hpair; cases hpair
  · intro r hr; rw [hserving] at hr; cases hr

theorem Agrees.initDone (h : Agrees s) (hs : s.station = .initialising) : Agrees s.initDone := by
  have hnone : s.profile = none := h.profile.installed.2 (.inl hs)
  have hflight := inFlight_none h.profile (by rw [hs]; decide) (by rw [hs]; decide)
  have hclock := h.clock
  have hroster := h.quiet.roster (by rw [hs]; rfl)
  have hstation : s.initDone.station = .unconfigured := rfl
  refine h.idle (by rw [hs]; rfl) rfl
    (clockAgrees_move hclock (by rw [hstation, hs]; rfl) (by rw [hstation, hs]; decide) (by rw [hstation, hs]; decide)
      (by rw [hstation, hs]; rfl))
    ⟨?_, ?_, ?_, fun hf => absurd hflight hf⟩ fun _ => hroster
  · exact iff_of_false (fun hn => hn rfl) (by rw [hstation]; decide)
  · exact iff_of_true hnone (.inr rfl)
  · intro q hq
    have hq' : s.profile = some q := hq
    rw [hnone] at hq'
    cases hq'

/-- A profile that passed its checks has an attempt limit of at least 1 (R166). -/
theorem attemptLimit_of_passed {r : RawProfile} (h : r.failure = none) : 1 ≤ r.attemptLimit := by
  rw [profileFailure_eq, firstFailure, Option.map_eq_none_iff, List.find?_eq_none] at h
  have hcheck := h (decide (1 ≤ r.attemptLimit ∧ r.attemptLimit ≤ 7), .badTimer, 4) (by simp [profileChecks])
  simp only [Bool.not_eq_true', decide_eq_false_iff_not, not_not] at hcheck
  exact hcheck.1

/-- The record that CONFIGURE installs, in CONFIGURED (R4). -/
theorem installedRecord_fits (r : RawWindow) {limit : Nat} {listed : Prop} (hlimit : 0 < limit) :
    Fits .configured limit False listed (installedRecord r) := by
  unfold installedRecord
  by_cases h0 : r.accessCode = 0
  · simp only [if_pos h0]
    exact ⟨by simp, by simp, fun hl => (nomatch hl), fun _ => .inl rfl, rfl, fun n hn => (nomatch hn)⟩
  · simp only [if_neg h0]
    exact ⟨by simp, by simp, fun hl => (nomatch hl), fun _ => .inr ⟨rfl, rfl⟩, hlimit, fun n hn => (nomatch hn)⟩

theorem Agrees.configureDone (h : Agrees s) {c : ConfigureInFlight} (hc : s.inFlight = some c) : Agrees (s.configureDone c) := by
  have hs := h.profile.inFlight (by rw [hc]; simp)
  have hq := h.quiet
  have hoff : s.station.takesPart = false ∧ s.station.clockMode = .stopped ∧ s.station ≠ .listening ∧
      s.station ≠ .standoff ∧ s.station.onLine = false ∧ s.station ≠ .initialising := by
    rcases hs with hs | hs <;> rw [hs] <;> decide
  obtain ⟨ho, hm, hnl, hns, hoffLine, hpast⟩ := hoff
  have hinit : s.initPass = none := by
    by_contra hne
    exact hpast (h.profile.initPass.1 hne)
  cases hfail : (readRawProfile c.staged).failure with
  | some failure =>
    obtain ⟨kind, index⟩ := failure
    have heq : s.configureDone c = ({ s with inFlight := none } : State).completeAs 1 c.tag .profileError
        (resultOfWords [BitVec.ofNat 32 kind.code, BitVec.ofNat 32 index]) := by
      rw [State.configureDone, hfail]
    rw [heq]
    refine h.idle ho ho (clockAgrees_congr h.clock rfl rfl rfl rfl rfl Iff.rfl) ⟨h.profile.initPass, h.profile.installed,
      h.profile.limit, fun hf => absurd rfl hf⟩ fun _ => hq.roster hm
  | none =>
    have heq : s.configureDone c = ((s.installProfile (readRawProfile c.staged)).nowConfigured.configureEvents s).completeAs 1 c.tag
        .done (resultOfWords [BitVec.setWidth 32 (readRawProfile c.staged).digest]) := by
      rw [State.configureDone, hfail]
    have hframe := installed_eq (readRawProfile c.staged) hs
    have hlimit := attemptLimit_of_passed hfail
    rw [heq]
    generalize resultOfWords _ = result
    generalize (s.installProfile (readRawProfile c.staged)).nowConfigured.configureEvents s = u at *
    have hstation : u.station = .configured := by rw [hframe]
    have hprofile : u.profile = some (readRawProfile c.staged).install := by rw [hframe]
    have hcatchUp : u.catchUp = none := by rw [hframe]
    have hresync : u.resync = [] := by rw [hframe]
    have hserving : u.serving = [] := by rw [hframe]
    have hturn : u.turn = none := by rw [hframe]
    have hwindow : ∀ w, u.window w = installedRecord (readRawWindow c.staged w.val) := by
      rw [hframe]
      exact records_window hfail
    have hlimits : u.attemptLimit = (readRawProfile c.staged).attemptLimit := by
      unfold State.attemptLimit
      rw [hprofile]
      rfl
    have hu : Agrees u := by
      refine ⟨clockAgrees_move h.clock ?_ ?_ ?_ ?_ (by rw [hframe]) (by rw [hframe]),
        ⟨fun _ => ?_, fun _ => ?_, fun _ => ?_, fun _ => hresync, fun _ => hcatchUp, fun _ => hserving, fun _ => hturn,
          fun _ => ?_⟩, ⟨?_, ?_, fun q hq => ?_, fun hf => ?_⟩,
        windowsAgree_iff.2 ⟨fun w => ?_, by rw [hresync]; exact List.nodup_nil⟩, ⟨?_, ?_, ?_⟩⟩
      · rw [hstation, hm]; rfl
      · exact iff_of_false (by rw [hstation]; decide) hnl
      · exact iff_of_false (by rw [hstation]; decide) hns
      · rw [hstation, hoffLine]; rfl
      · rw [hframe]; exact hq.outbound ho
      · rw [hframe]; exact hq.control ho
      · rw [hframe]; exact hq.account ho
      · rw [hframe]; exact hq.roster hm
      · rw [hstation]
        refine iff_of_false (fun hn => hn ?_) (by decide)
        rw [hframe]
        exact hinit
      · rw [hstation, hprofile]; simp
      · rw [hprofile] at hq
        cases hq
        exact hlimit
      · rw [hframe] at hf
        exact absurd rfl hf
      · rw [hwindow, hstation, hlimits]
        exact (installedRecord_fits _ hlimit).of_iff (iff_of_false (tries_none hcatchUp w) id) fun _ => Iff.rfl
      · rw [hserving]; exact List.nodup_nil
      · intro pair hpair; rw [hturn] at hpair; cases hpair
      · intro r hr; rw [hserving] at hr; cases hr
    exact hu.congr

end Sys2Proof.Proofs

/-! Every row leaves a sound station sound (O57): the rows of the table, one after the other. -/

namespace Sys2Proof.Proofs

-- One proof at a time: every further thread of the elaborator counts against the memory limit.
set_option Elab.async false

open Sys2Proof Sys2Proof.Machine Sys2Proof.Laws

variable {s t u : State} {p : Profile} {i : Instr}

/-! ## Receptions -/

/-- A CBEG, and what the rows below share: taken under an account in a station that takes part. -/
theorem received_sound {header : Header} {b : FrameBody} {act : State → State} (h : s.Sound)
    (hact : ∀ u, u.Sound → u.station.takesPart = true → (act u).Sound) :
    (s.receive header b fun s => s.applying fun s => s.underAccount header act).Sound :=
  receive_sound h fun u hu => applying_sound (sound_steady h hu) fun htakes =>
    underAccount_sound (sound_steady h hu) fun v hv =>
      hact v (sound_steady (sound_steady h hu) hv) (by rw [hv.station]; exact htakes)

theorem openReceived_sound (h : s.Sound) (header : Header) (digest : Half) (cold leaving : Bool) (current : WindowSet)
    (instant : Nat) (order : List RoundEndTask) :
    (s.receive header (.opn digest cold leaving current) fun s =>
      (s.openReported header digest cold leaving current instant order).tryBegin).Sound :=
  receive_sound h fun _ hu => ((agrees_of_sound (sound_steady h hu)).openReported _ _ _ _ _ _ _).tried

theorem closeReceived_sound (h : s.Sound) (header : Header) (updates frames : Byte) (touched : WindowSet) :
    (s.receive header (.close updates frames touched) fun s =>
      s.applying fun s => (s.takeClose header updates frames touched).tryBegin).Sound :=
  receive_sound h fun _ hu => applying_sound (sound_steady h hu) fun _ =>
    ((agrees_of_sound (sound_steady h hu)).takeClose _ _ _ _).tried

theorem updReceived_sound (h : s.Sound) (header : Header) (w : WindowNo) (first : BitVec 4) (block : BitVec 10)
    (words : List Word) :
    (s.receive header (.upd w first block words) fun s =>
      s.applying fun s => (s.takeUpd header w first block words).tryBegin).Sound :=
  receive_sound h fun _ hu => applying_sound (sound_steady h hu) fun _ =>
    ((agrees_of_sound (sound_steady h hu)).takeUpd _ _ _ _ _).tried

theorem ntcReceived_sound (h : s.Sound) (header : Header) (target : Byte) (level : BitVec 3) (tag : Half) :
    (s.receive header (.ntc target level tag) fun s =>
      s.applying fun s => s.underAccount header fun s => s.takeNtc header target level tag).Sound :=
  received_sound h fun _ hu _ => sound_steady hu (takeNtc_steady _ _ _ _ _)

theorem creqReceived_sound (h : s.Sound) (header : Header) (w : WindowNo) (attempt : BitVec 3) (first last : BitVec 10) :
    (s.receive header (.creq w attempt first last) fun s =>
      s.applying fun s => s.underAccount header fun s => s.takeCreq header.sender w first last).Sound :=
  received_sound h fun u hu _ => sound_copySide hu ((agrees_of_sound hu).takeCreq _ _ _ _) (takeCreq_side u _ _ _ _)

theorem cbegReceived_sound (h : s.Sound) (header : Header) (joiner : StationNo) (w : WindowNo) (first last : BitVec 10) :
    (s.receive header (.cbeg joiner w first last) fun s =>
      s.applying fun s => s.underAccount header fun s =>
        if s.isSelf joiner then s.joinerCbeg header.sender w else s.withdrawOffer joiner w).Sound :=
  received_sound h fun u hu htakes => by
    split
    · exact sound_steady hu (joinerCbeg_steady htakes _ _)
    · exact sound_copySide hu ((agrees_of_sound hu).withdrawOffer _ _) (withdrawOffer_side u _ _)

theorem cblkReceived_sound (h : s.Sound) (header : Header) (joiner : StationNo) (w : WindowNo) (block : BitVec 10)
    (words : List Word) :
    (s.receive header (.cblk joiner w block words) fun s =>
      s.applying fun s => s.underAccount header fun s =>
        if s.isSelf joiner then s.joinerCblk header.sender w block.toNat words else s).Sound :=
  received_sound h fun u hu htakes => by
    split
    · exact sound_steady hu (joinerCblk_steady htakes _ _ _ _)
    · exact hu

theorem cendReceived_sound (h : s.Sound) (header : Header) (joiner : StationNo) (w : WindowNo) (count : Half) :
    (s.receive header (.cend joiner w count) fun s =>
      s.applying fun s => s.underAccount header fun s =>
        if s.isSelf joiner then (s.joinerCend header.sender w).tryBegin else s).Sound :=
  received_sound h fun u hu _ => by
    split
    · exact ((agrees_of_sound hu).joinerCend _ _).tried
    · exact hu

theorem ccanReceived_sound (h : s.Sound) (header : Header) (donor : StationNo) (w : WindowNo) :
    (s.receive header (.ccan donor w) fun s =>
      s.applying fun s => s.underAccount header fun s =>
        if s.isSelf donor then s.takeCcan header.sender w else s).Sound :=
  received_sound h fun u hu _ => by
    split
    · exact sound_copySide hu ((agrees_of_sound hu).clearOffer _ _) (clearOffer_side u _ _)
    · exact hu

theorem cabtReceived_sound (h : s.Sound) (header : Header) (joiner : StationNo) (w : WindowNo) :
    (s.receive header (.cabt joiner w) fun s =>
      s.applying fun s => s.underAccount header fun s =>
        if s.isSelf joiner then (s.joinerCabt header.sender w).tryBegin else s).Sound :=
  received_sound h fun u hu _ => by
    split
    · exact ((agrees_of_sound hu).joinerCabt _ _).tried
    · exact hu

/-! ## Readbacks -/

theorem closeNow_steady (s : State) : Steady s s.closeNow := by
  unfold State.closeNow
  split
  · exact offerClose_steady s _ _
  · exact .refl s

theorem coldOpenReported_sound (h : s.Sound) (hs : s.station = .coldStart) (p : Profile) (intact : Bool) :
    (s.coldOpenReported p intact).Sound := by
  unfold State.coldOpenReported
  split
  · exact sound_steady h (closeNow_steady s)
  · split
    · have hstarted := (agrees_of_sound h).coldStartIntact hs
      have hresync : s.coldStartIntact.resync = [] := by
        rw [(coldStartIntact_started s).2.2]
        exact h.quiet.resync (by rw [hs]; decide)
      exact sound_steady (hstarted.sound_unlisted hresync) (goOn_steady _)
    · exact ((agrees_of_sound h).coldStartLost hs p).sound_idle (fun hm => nomatch hm)

theorem ownOpenReported_sound (h : s.Sound) (htakes : s.station.takesPart = true) (hp : s.profile = some p) (header : Header)
    (intact : Bool) : (s.ownOpenReported p header intact).Sound := by
  have hcounted (n : Nat) : Steady s { s with openFailures := n } := {}
  unfold State.ownOpenReported
  split
  · exact ((((agrees_of_sound h).steady (hcounted 0)).endAccount _).steady (goOn_steady _)).tried
  · split
    · exact sound_steady h ((hcounted 1).trans ((frameLost_steady _ _ _).trans (goOn_steady _)))
    · refine ((agrees_of_sound h).comeOff htakes hp _ (.inr (.inl rfl))).sound_idle ?_
      rw [comeOff_station _ hp (.inr (.inl rfl))]
      decide

theorem openReadBack_sound (h : s.Sound) (hp : s.profile = some p) (header : Header) (intact : Bool) :
    (s.openReadBack p header intact).Sound := by
  unfold State.openReadBack
  cases hs : s.station with
  | coldStart => exact coldOpenReported_sound h hs p intact
  | active | leaving => exact ownOpenReported_sound h (by rw [hs]; rfl) hp header intact
  | _ => exact h

theorem execOpenReadback_sound (h : s.Sound) {intact : Bool} (he : execOpenReadback intact s = .next t) : t.Sound := by
  unfold execOpenReadback at he
  split at he
  next header digest cold leaving current start p _ hp =>
    have hended := endFrame_steady h.clock ⟨⟨header, .opn digest cold leaving current⟩, start⟩
    dsimp only at he
    split at he <;> cases he
    · exact openReadBack_sound (sound_steady h hended) (hended.profile.trans hp) _ _
    · exact sound_steady h hended
  next => cases he; exact h

theorem ownUpdReported_agrees (h : Agrees s) (header : Header) (w : WindowNo) (first : BitVec 4) (block : BitVec 10)
    (words : List Word) (intact : Bool) : Agrees (s.ownUpdReported header w first block words intact) := by
  unfold State.ownUpdReported
  split
  · exact h.admitUpdate _ _ _ _ _
  · exact (h.steady (frameLost_steady _ _ _)).loss w

theorem execUpdReadback_sound (h : s.Sound) {intact : Bool} (he : execUpdReadback intact s = .next t) : t.Sound := by
  unfold execUpdReadback at he
  split at he
  next header w first block words start _ =>
    have hended := endFrame_steady h.clock ⟨⟨header, .upd w first block words⟩, start⟩
    dsimp only at he
    split at he <;> cases he
    · have hpopped := (agrees_of_sound h).steady (hended.trans (popOutbound_steady _))
      exact ((ownUpdReported_agrees hpopped header w first block words intact).steady (completeFences_steady _)).tried
    · exact sound_steady h hended
  next => cases he; exact h

theorem execNtcReadback_sound (h : s.Sound) {intact : Bool} (he : execNtcReadback intact s = .next t) : t.Sound := by
  unfold execNtcReadback at he
  split at he
  next header target level tag start _ =>
    have hended := endFrame_steady h.clock ⟨⟨header, .ntc target level tag⟩, start⟩
    dsimp only at he
    split at he <;> cases he
    · have hpopped := hended.trans (popOutbound_steady _)
      refine sound_steady h (Steady.trans ?_ (completeFences_steady _))
      split
      · exact hpopped
      · exact hpopped.trans (frameLost_steady _ _ _)
    · exact sound_steady h hended
  next => cases he; exact h

theorem execCreqReadback_sound (h : s.Sound) {intact : Bool} (he : execCreqReadback intact s = .next t) : t.Sound := by
  unfold execCreqReadback at he
  split at he
  next => cases he; exact sound_steady h ((endFrame_steady h.clock _).trans (creqReported_steady _ _ _))
  next => cases he; exact h

theorem execCbegReadback_sound (h : s.Sound) {intact : Bool} (he : execCbegReadback intact s = .next t) : t.Sound := by
  unfold execCbegReadback at he
  split at he
  next header joiner w first last start _ =>
    cases he
    have hended := sound_steady h (endFrame_steady h.clock ⟨⟨header, .cbeg joiner w first last⟩, start⟩)
    exact sound_copySide hended ((agrees_of_sound hended).cbegReported _ _) (cbegReported_side _ _ _)
  next => cases he; exact h

theorem endSlot_steady (s : State) : Steady s s.endSlot := by
  unfold State.endSlot
  split
  · dsimp only
    split
    · exact {}
    · split
      · exact Steady.trans (t := { s with filler := none }) {} (openSlot_steady _ _ _ _ _)
      · exact {}
  · exact .refl s

theorem closeReadBack_sound (h : s.Sound) (hp : s.profile = some p) : (s.closeReadBack p).Sound := by
  have hidle : Steady s { s with filler := none } := {}
  have hagrees := (agrees_of_sound h).steady hidle
  unfold State.closeReadBack
  split
  · exact h
  · split
    next hl =>
      have htakes : s.station.takesPart = true := by rw [hl.1]; rfl
      have hp' : ({ s with filler := none } : State).profile = some p := hp
      refine (hagrees.comeOff htakes hp' _ (.inr (.inr rfl))).sound_idle ?_
      rw [comeOff_station _ hp' (.inr (.inr rfl))]
      decide
    next =>
      split
      next hc => exact (hagrees.coldLeaveDone hc.1).sound_idle (fun hm => nomatch hm)
      next => exact sound_steady h (endSlot_steady s)

theorem execCloseReadback_sound (h : s.Sound) {intact : Bool} (he : execCloseReadback intact s = .next t) : t.Sound := by
  unfold execCloseReadback at he
  split at he
  next header updates frames touched start p _ hp =>
    have hended := endFrame_steady h.clock ⟨⟨header, .close updates frames touched⟩, start⟩
    dsimp only at he
    split at he <;> cases he
    · exact closeReadBack_sound (sound_steady h hended) (hended.profile.trans hp)
    · exact sound_steady h hended
  next => cases he; exact h

theorem execOtherFrameReadback_sound (h : s.Sound) {intact : Bool} (he : execOtherFrameReadback intact s = .next t) : t.Sound := by
  unfold execOtherFrameReadback at he
  split at he
  · cases he; exact h
  · split at he <;> cases he
    · exact sound_steady h (endFrame_steady h.clock _)
    · exact h

/-! ## The slots -/

theorem execSlotStart_sound (h : s.Sound) {k : Nat} (he : execSlotStart k s = .next t) : t.Sound := by
  unfold execSlotStart at he
  split at he
  · cases he; exact h
  · split at he <;> cases he
    next hr =>
      have hposition := position_of_running h.clock (of_decide_eq_true (Bool.and_eq_true_iff.1 hr).1)
      exact sound_steady h ((passTo_steady hposition _).trans (slotStarted_steady _ _ _))
    next => exact h

theorem execSlotEnd_sound (h : s.Sound) {k : Nat} (he : execSlotEnd k s = .next t) : t.Sound := by
  unfold execSlotEnd at he
  split at he
  · cases he; exact h
  · split at he <;> cases he
    next hr =>
      have hposition := position_of_running h.clock (of_decide_eq_true (Bool.and_eq_true_iff.1 hr).1)
      exact sound_steady h ((passTo_steady hposition _).trans (slotEnded_steady _ _ _))
    next => exact h

theorem execOpenGraceExpiry_sound (h : s.Sound) {k : Nat} (he : execOpenGraceExpiry k s = .next t) : t.Sound := by
  unfold execOpenGraceExpiry at he
  split at he
  · cases he; exact h
  · split at he <;> cases he
    next hr =>
      have hposition := position_of_running h.clock (of_decide_eq_true (Bool.and_eq_true_iff.1 hr).1)
      exact (((agrees_of_sound h).steady (passTo_steady hposition _)).graceExpired k).tried
    next => exact h

theorem execSlotFrameOffer_sound (h : s.Sound) (he : execSlotFrameOffer s = .next t) : t.Sound := by
  unfold execSlotFrameOffer at he
  split at he
  · split at he <;> cases he
    · exact h
    · exact sound_steady h (offerNext_steady _ _ _)
  · cases he; exact h

/-- The turn may move to any record of the list. -/
theorem Agrees.turned (h : Agrees s) {r : ServingRecord} (hr : r ∈ s.serving) : Agrees { s with turn := some r.pair } := by
  refine ⟨clockAgrees_congr h.clock rfl rfl rfl rfl rfl Iff.rfl, ?_, profileAgrees_congr h.profile rfl rfl rfl rfl,
    windowsAgree_congr h.windows rfl rfl rfl (fun _ => Iff.rfl) rfl, h.serving.pairs, ?_, h.serving.current⟩
  · obtain ⟨h1, h2, h3, h4, h5, h6, h7, h8⟩ := h.quiet
    refine ⟨h1, h2, h3, h4, h5, h6, fun ha => ?_, h8⟩
    rw [h6 ha] at hr
    cases hr
  · intro pair hpair
    cases hpair
    exact ⟨r, hr, rfl⟩

theorem copySource_eq {pair : StationNo × WindowNo} {r : ServingRecord} {next b : Nat}
    (h : s.copySource pair = some (r, next, b)) : s.servingOf pair.1 pair.2 = some r ∧ r.nextBlock = some next := by
  unfold State.copySource at h
  split at h
  · cases h
  · next q hq =>
    split at h
    · cases h
    · next n hn =>
      obtain ⟨b, -, hb⟩ := Option.map_eq_some_iff.1 h
      cases hb
      exact ⟨hq, hn⟩

/-- A record that `servingOf` finds is in the list and has the pair it was sought by. -/
theorem servingOf_mem {joiner : StationNo} {w : WindowNo} {r : ServingRecord} (h : s.servingOf joiner w = some r) :
    r ∈ s.serving ∧ r.joiner = joiner ∧ r.window = w := by
  have hfound := List.find?_some h
  simp only [Bool.and_eq_true, decide_eq_true_eq] at hfound
  exact ⟨List.mem_of_find?_eq_some h, hfound⟩

theorem Agrees.removeServing (h : Agrees s) {joiner : StationNo} {w : WindowNo} {r : ServingRecord}
    (hr : s.servingOf joiner w = some r) : Agrees (s.removeServing r.pair) := by
  have hgone := (clearOffer_ended (joiner := joiner) (w := w) h.serving.pairs).1
  rw [show s.clearOffer joiner w = s.dropServing r by rw [State.clearOffer, hr]] at hgone
  exact h.recordsGone rfl (.inr rfl) (hgone.of_eq rfl rfl rfl rfl)

theorem Agrees.advanceServing (h : Agrees s) {joiner : StationNo} {w : WindowNo} {r : ServingRecord}
    (hr : s.servingOf joiner w = some r) (next : Nat) : Agrees (s.advanceServing r next) := by
  obtain ⟨hmem, -⟩ := servingOf_mem hr
  have hturned := h.turned hmem
  unfold State.advanceServing
  dsimp only
  split
  · exact hturned.mapServing _ fun q => by split <;> rfl
  · have htakes : s.station.takesPart = true := by
      refine takesPart_of_active ?_
      by_contra ha
      rw [h.quiet.serving ha] at hmem
      cases hmem
    have hfound : State.servingOf (State.queueControl { s with turn := some r.pair }
      (.cend r.joiner r.window (BitVec.ofNat 16 (r.last - r.first + 1)))) joiner w = some r := hr
    exact (hturned.steady (queueControl_steady (s := { s with turn := some r.pair }) htakes _)).removeServing hfound

theorem releaseCopyRead_steady (s : State) : Steady s s.releaseCopyRead := {}

theorem execCopyReadGranted_sound (h : s.Sound) (he : execCopyReadGranted s = .next t) : t.Sound := by
  unfold execCopyReadGranted at he
  split at he
  next p f pair _ _ _ =>
    split at he
    · split at he
      · cases he
        exact sound_steady h (releaseCopyRead_steady s)
      next r next b hsource =>
        split at he <;> cases he
        unfold State.offerBlock
        split
        · have hsent : Steady s (State.sendFrame { s with copyRead := none } p { f with copies := f.copies + 1 }
              (.cblk r.joiner r.window (BitVec.ofNat 10 next) (s.storeBlockWords b))) :=
            Steady.trans (t := { s with copyRead := none }) {} (sendFrame_steady _ _ _ _)
          have hsound := sound_steady h hsent
          have hserving := hsent.serving
          generalize State.sendFrame { s with copyRead := none } p { f with copies := f.copies + 1 }
            (.cblk r.joiner r.window (BitVec.ofNat 10 next) (s.storeBlockWords b)) = u at *
          have hr : u.servingOf pair.1 pair.2 = some r := by
            have hfound := (copySource_eq hsource).1
            unfold State.servingOf at hfound ⊢
            rw [hserving]
            exact hfound
          exact sound_copySide hsound ((agrees_of_sound hsound).advanceServing hr _) (advanceServing_side _ _ _)
        · exact sound_steady h (releaseCopyRead_steady s)
    · cases he; exact h
  next => cases he; exact h

/-! ## The round end and the timers -/

theorem endRound_steady (h : s.clock.position.isSome = true) : Steady s s.endRound := { position := h.symm }

theorem execRoundEnd_sound (h : s.Sound) (he : execRoundEnd s = .next t) : t.Sound := by
  unfold execRoundEnd at he
  split at he <;> cases he
  · exact h
  · split
    next p _ hr =>
      have hposition := position_of_running h.clock (of_decide_eq_true hr)
      have hpassed := passTo_steady hposition p.roundLength
      have hended := hpassed.trans (endRound_steady (hpassed.position.trans hposition))
      exact sound_steady h (hended.trans (reduceTimers_steady _))
    next => exact h

theorem takeSyncLoss_sound (h : s.Sound) : s.takeSyncLoss.Sound := by
  unfold State.takeSyncLoss
  split
  · exact h
  next p hp =>
    split
    next hl =>
      have htakes := (Bool.and_eq_true_iff.1 hl).2
      refine ((agrees_of_sound h).comeOff htakes hp _ (.inl rfl)).sound_idle ?_
      rw [comeOff_station _ hp (.inl rfl)]
      decide
    next => exact h

theorem examine_state (r : RosterRecord) (ended : Half) (limit : Nat) :
    (r.examine ended limit).state = r.state ∧ (r.examine ended limit).current = r.current ∧
      ((r.state = .present ∧ r.silent = limit) → (r.examine ended limit).silent = limit) := by
  unfold RosterRecord.examine
  split
  next hx => exact ⟨rfl, rfl, fun hd => absurd hx.2.2 (by rw [hd.2]; exact lt_irrefl _)⟩
  next => exact ⟨rfl, rfl, fun hd => hd.2⟩

/-- The examination raises silences and changes nothing else; a departure that is due stays due. -/
theorem examineRoster_sound (h : s.Sound) : s.examineRoster.Sound := by
  refine (agrees_of_sound h).examineRoster.sound ?_
  have hsettled := h.settled
  unfold State.examineRoster
  split
  · have hadvertised : State.advertised { s with
        roster := s.roster.map fun r => r.examine s.clock.endedRound s.silenceLimit } = s.advertised := by
      funext w
      simp only [State.advertised, List.any_map, Function.comp_def, (examine_state _ _ _).1, (examine_state _ _ _).2.1]
    unfold State.nextTried at hsettled ⊢
    rw [hadvertised]
    refine (ite_eq_right_iff).2 fun ⟨ha, hc, hd⟩ => ?_
    have hdue : ∀ r ∈ s.roster, ¬ (r.state = .present ∧ r.silent = s.silenceLimit) := fun r hr hrd => by
      obtain ⟨hstate, -, hsilent⟩ := examine_state r s.clock.endedRound s.silenceLimit
      exact hd _ (List.mem_map_of_mem hr) ⟨hstate.trans hrd.1, hsilent hrd⟩
    rwa [if_pos ⟨ha, hc, hdue⟩] at hsettled
  · exact hsettled

theorem mapWindows_nextTried (s : State) (f : WindowRecord → WindowRecord) : (s.mapWindows f).nextTried = s.nextTried :=
  nextTried_congr (mapWindows_station _ _) (mapWindows_profile _ _) (mapWindows_roster _ _) (mapWindows_resync _ _)
    (by rw [mapWindows_catchUp])

theorem reduceColdMarks_sound (h : s.Sound) : s.reduceColdMarks.Sound := by
  refine (agrees_of_sound h).reduceColdMarks.sound ?_
  unfold State.reduceColdMarks
  split
  · exact (mapWindows_nextTried s _).trans h.settled
  · exact h.settled

theorem lapseOffers_sound (h : s.Sound) : s.lapseOffers.Sound :=
  sound_copySide h (agrees_of_sound h).lapseOffers (lapseOffers_side s)

theorem slotStarted_station (s : State) (p : Profile) (k : Nat) : (s.slotStarted p k).station = s.station :=
  (slotStarted_steady s p k).station

theorem execQuietTimerExpiry_sound (h : s.Sound) (he : execQuietTimerExpiry s = .next t) : t.Sound := by
  unfold execQuietTimerExpiry at he
  split at he
  · cases he; exact h
  next p _ =>
    split at he <;> cases he
    next hl =>
      refine ((agrees_of_sound h).enterColdStart hl.1 p).sound_idle ?_
      unfold State.enterColdStart
      dsimp only
      rw [slotStarted_station]
      exact fun hm => nomatch hm
    next => exact h

theorem execJoinTimerExpiry_sound (h : s.Sound) (he : execJoinTimerExpiry s = .next t) : t.Sound := by
  unfold execJoinTimerExpiry at he
  split at he
  · cases he; exact h
  next p _ =>
    split at he <;> cases he
    next hl =>
      refine ((agrees_of_sound h).joinExpired hl.1 p).sound_idle ?_
      unfold State.joinExpired
      split
      · exact fun hm => nomatch hm
      · rw [hl.1]; exact fun hm => nomatch hm
    next => exact h

theorem execStandoffTimerExpiry_sound (h : s.Sound) (he : execStandoffTimerExpiry s = .next t) : t.Sound := by
  unfold execStandoffTimerExpiry at he
  split at he
  · cases he; exact h
  next p _ =>
    split at he <;> cases he
    next hl => exact ((agrees_of_sound h).standoffExpired hl.1 p).sound_idle fun hm => nomatch hm
    next => exact h

/-! ## The receiver's rows -/

/-- On the line with nothing driven, the receiver goes from one state to another behind a report. -/
theorem setReceiver_sound {r : Receiver} (h : s.Sound) (hh : s.hears = true) (hr : r ≠ .off) (hu : Steady s u) :
    (u.setReceiver r).Sound := by
  have hon : u.station.onLine = true := by rw [hu.station]; exact onLine_of_hears hh
  have hsound := sound_steady h hu
  exact sound_steady hsound (setReceiver_steady (receiver_ne_off hsound.clock hon) hr)

theorem execLeadFound_sound (h : s.Sound) (he : execLeadFound s = .next t) : t.Sound := by
  cases he
  split
  next hh => exact setReceiver_sound h hh (by decide) (endDiscardRun_steady s)
  next => exact h

theorem execDiscardRunStart_sound (h : s.Sound) (he : execDiscardRunStart s = .next t) : t.Sound := by
  cases he
  split
  next hh => exact setReceiver_sound h hh (by decide) (.refl s)
  next => exact h

theorem execCorruptReception_sound (h : s.Sound) (he : execCorruptReception s = .next t) : t.Sound := by
  cases he
  split
  next hh => exact setReceiver_sound h hh (by decide) (corruptReport_steady s)
  next => exact h

/-- Every row of the line leaves a sound station sound. -/
theorem exec_ofLine_sound (h : s.Sound) (hi : ofLine i = true) (he : exec i s = .next t) : t.Sound := by
  cases i with
  | openReceived => cases he; exact openReceived_sound h _ _ _ _ _ _ _
  | closeReceived => cases he; exact closeReceived_sound h _ _ _ _
  | updReceived => cases he; exact updReceived_sound h _ _ _ _ _
  | ntcReceived => cases he; exact ntcReceived_sound h _ _ _ _
  | creqReceived => cases he; exact creqReceived_sound h _ _ _ _ _
  | cbegReceived => cases he; exact cbegReceived_sound h _ _ _ _ _
  | cblkReceived => cases he; exact cblkReceived_sound h _ _ _ _ _
  | cendReceived => cases he; exact cendReceived_sound h _ _ _ _
  | ccanReceived => cases he; exact ccanReceived_sound h _ _ _
  | cabtReceived => cases he; exact cabtReceived_sound h _ _ _
  | corruptReception => exact execCorruptReception_sound h he
  | openReadback => exact execOpenReadback_sound h he
  | updReadback => exact execUpdReadback_sound h he
  | ntcReadback => exact execNtcReadback_sound h he
  | creqReadback intact => exact execCreqReadback_sound h (intact := intact) he
  | cbegReadback intact => exact execCbegReadback_sound h (intact := intact) he
  | closeReadback intact => exact execCloseReadback_sound h (intact := intact) he
  | otherFrameReadback intact => exact execOtherFrameReadback_sound h (intact := intact) he
  | slotStart => exact execSlotStart_sound h he
  | slotFrameOffer => exact execSlotFrameOffer_sound h he
  | openGraceExpiry => exact execOpenGraceExpiry_sound h he
  | slotEnd => exact execSlotEnd_sound h he
  | roundEnd => exact execRoundEnd_sound h he
  | misalignedRoundTest => cases he; exact sound_steady h (testRound_steady s)
  | syncLoss => cases he; exact takeSyncLoss_sound h
  | rosterSilenceCheck => cases he; exact examineRoster_sound h
  | peerSilent => cases he; exact ((agrees_of_sound h).silentPeer _).tried
  | coldMarkReduction => cases he; exact reduceColdMarks_sound h
  | waitTimerExpiry => cases he; exact (agrees_of_sound h).expireWait.tried
  | stallTimerExpiry => cases he; exact (agrees_of_sound h).expireStall.tried
  | offerLapse => cases he; exact lapseOffers_sound h
  | quietTimerExpiry => exact execQuietTimerExpiry_sound h he
  | joinTimerExpiry => exact execJoinTimerExpiry_sound h he
  | standoffTimerExpiry => exact execStandoffTimerExpiry_sound h he
  | leadFound => exact execLeadFound_sound h he
  | discardRunStart => exact execDiscardRunStart_sound h he
  | _ => cases hi

end Sys2Proof.Proofs

/-! Every row leaves a sound station sound (O57): the rows of the host and of the store, and the step. -/

namespace Sys2Proof.Proofs

-- One proof at a time: every further thread of the elaborator counts against the memory limit.
set_option Elab.async false

open Sys2Proof Sys2Proof.Machine Sys2Proof.Laws

variable {s t u : State} {p : Profile} {i : Instr}

/-! ## Changes of the host's own parts -/

theorem region_steady (s : State) (m : Memory) : Steady s { s with region := m } := {}

theorem completion_steady (s : State) (c : Completion) : Steady s { s with completion := c } := {}

theorem complete_steady (s : State) (status : CompletionStatus) : Steady s (s.complete status) := completion_steady s _

theorem completeBytes_steady (s : State) (status : CompletionStatus) (bytes : List Byte) :
    Steady s (s.completeBytes status bytes) := completion_steady s _

theorem notices_steady (s : State) (n : NoticeUnit) : Steady s { s with notices := n } := {}

theorem appendOutbound_steady (htakes : s.station.takesPart = true) (e : OutboundEntry) : Steady s (s.appendOutbound e) :=
  { outbound := fun ho => absurd htakes (by rw [ho]; exact Bool.false_ne_true) }

theorem writeStore_steady (s : State) (b first : Nat) (words : List Word) : Steady s (s.writeStore b first words) := {}

/-- A window's flags are no part of what soundness says of it. -/
theorem setWindow_sound (h : s.Sound) {w : WindowNo} {r : WindowRecord} (hholding : r.holding = (s.window w).holding)
    (hcurrency : r.currency = (s.window w).currency) (hattempts : r.attempts = (s.window w).attempts)
    (hmark : r.coldMark = (s.window w).coldMark) : (s.setWindow w r).Sound := by
  have hwindow (x : WindowNo) : (s.setWindow w r).window x = if w = x then r else s.window x := window_set s w x r
  have hrecord (x : WindowNo) : ((s.setWindow w r).window x).currency = (s.window x).currency := by
    rw [hwindow]
    split
    next hx => rw [← hx]; exact hcurrency
    next => rfl
  obtain ⟨h1, h2, h3, h4, h5, h6, h7, h8⟩ := h.quiet
  refine Agrees.sound ⟨clockAgrees_congr h.clock rfl rfl rfl rfl rfl Iff.rfl, ⟨h1, h2, h3, h4, h5, h6, h7, h8⟩,
    profileAgrees_congr h.profile rfl rfl rfl rfl, ?_, ⟨h.serving.pairs, h.serving.turn, fun q hq => (hrecord _).trans (h.serving.current q hq)⟩⟩ h.settled
  refine windowsAgree_one (w := w) h.windows rfl rfl ?_ (fun x hx => ⟨?_, Iff.rfl, Iff.rfl⟩) h.windows.listedOnce
  · obtain ⟨h1, h2, h3, h4, h5, h6⟩ := (windowsAgree_iff.1 h.windows).1 w
    rw [(hwindow w).trans (if_pos rfl)]
    exact ⟨by rw [hholding, hcurrency]; exact h1, by rw [hcurrency]; exact h2, by rw [hcurrency]; exact h3,
      by rw [hcurrency, hattempts]; exact h4, by rw [hcurrency, hattempts]; exact h5,
      by rw [hcurrency, hmark]; exact h6⟩
  · exact (hwindow x).trans (if_neg hx.symm)

theorem setWritten_sound (h : s.Sound) (w : WindowNo) : (s.setWritten w).Sound := setWindow_sound h rfl rfl rfl rfl

theorem setWatch_sound (h : s.Sound) (w : WindowNo) (watch : Bool) :
    (s.setWindow w { s.window w with watch := watch }).Sound := setWindow_sound h rfl rfl rfl rfl

theorem clearWritten_sound (h : s.Sound) (w : WindowNo) : (s.setWindow w { s.window w with written := false }).Sound :=
  setWindow_sound h rfl rfl rfl rfl

/-! ## The commands -/

theorem complete_sound (h : s.Sound) (status : CompletionStatus) : (s.complete status).Sound :=
  sound_steady h (complete_steady s status)

theorem takeConfigure_sound (h : s.Sound) : s.takeConfigure.Sound := by
  unfold State.takeConfigure
  split
  case h_1 hs | h_2 hs =>
    have ho : s.station.takesPart = false := by rw [hs]; rfl
    have hq := h.quiet.roster (by rw [hs]; rfl)
    have hallowed : s.station = .unconfigured ∨ s.station = .configured := by simp [hs]
    refine Agrees.sound_idle (Agrees.idle (agrees_of_sound h) ho ho (clockAgrees_congr h.clock rfl rfl rfl rfl rfl Iff.rfl)
      ⟨h.profile.initPass, h.profile.installed, h.profile.limit, fun _ => hallowed⟩ fun _ => hq) (by rw [hs]; decide)
  all_goals exact complete_sound h _

theorem takeJoin_sound (h : s.Sound) (hflight : s.inFlight = none) : s.takeJoin.Sound := by
  unfold State.takeJoin
  split
  next hs =>
    split
    · exact complete_sound h _
    next p hp =>
      exact complete_sound (((agrees_of_sound h).enterListening hs hp hflight).sound_idle fun hm => nomatch hm) _
  all_goals exact complete_sound h _

theorem takeLeave_sound (h : s.Sound) : s.takeLeave.Sound := by
  unfold State.takeLeave
  split
  next hs =>
    refine complete_sound (((agrees_of_sound h).enterLeaving hs).sound_idle ?_) _
    obtain ⟨-, -, -, -, -, hframe⟩ := enterLeaving_left s
    rw [hframe]
    exact fun hm => nomatch hm
  next hs => exact complete_sound (((agrees_of_sound h).leaveAtOnce (.inl hs)).sound_idle fun hm => nomatch hm) _
  next hs => exact complete_sound (((agrees_of_sound h).leaveAtOnce (.inr (.inl hs))).sound_idle fun hm => nomatch hm) _
  next hs => exact complete_sound (((agrees_of_sound h).leaveAtOnce (.inr (.inr hs))).sound_idle fun hm => nomatch hm) _
  next => exact complete_sound (sound_steady (t := { s with leavePending := true }) h {}) _
  all_goals exact complete_sound h _

theorem takeReset_sound (s : State) : s.takeReset.Sound :=
  complete_sound (s := s.resetStation) (reset_sound _ _ _ _ _ _ (.inr ⟨rfl, rfl⟩)) _

/-- A command that names a held window keeps the station sound where its effect on one does. -/
theorem onHeldWindow_sound {act : State → WindowNo → State} (h : s.Sound)
    (hact : ∀ w, s.station = .active → (s.window w).holding ≠ none → (act s w).Sound) : (s.onHeldWindow act).Sound := by
  unfold State.onHeldWindow
  split
  next ha =>
    split
    · exact complete_sound h _
    · split
      next hheld => exact complete_sound (hact _ ha (isHeld_iff.1 hheld)) _
      next => exact complete_sound h _
  next => exact complete_sound h _

theorem takeDeclare_sound (h : s.Sound) : s.takeDeclare.Sound :=
  onHeldWindow_sound h fun w ha hheld => by
    by_cases hc : (s.window w).currency = .current
    · rw [declareWindow_idle hc, tryBegin_none h.settled]
      exact h
    · exact ((agrees_of_sound h).declareWindow ha hc (currency_unheld h.windows hheld)).tried

theorem takeResync_sound (h : s.Sound) : s.takeResync.Sound :=
  onHeldWindow_sound h fun w ha hheld => by
    have hunheld := currency_unheld h.windows hheld
    cases hc : (s.window w).currency with
    | unheld => exact absurd hc hunheld
    | stale =>
      rw [resyncWindow_idle (.inl hc), tryBegin_none h.settled]
      exact h
    | catchingUp =>
      rw [resyncWindow_idle (.inr hc), tryBegin_none h.settled]
      exact h
    | current => exact ((agrees_of_sound h).resyncWindow ha (.inl hc)).tried
    | stranded => exact ((agrees_of_sound h).resyncWindow ha (.inr hc)).tried

theorem takeWatch_sound (h : s.Sound) : s.takeWatch.Sound := by
  unfold State.takeWatch
  split
  · exact complete_sound h _
  · split
    · exact complete_sound h _
    · split
      · exact complete_sound (setWatch_sound h _ _) _
      · exact complete_sound h _

theorem takeClearWritten_sound (h : s.Sound) : s.takeClearWritten.Sound := by
  unfold State.takeClearWritten
  split
  · exact complete_sound h _
  · split
    · exact complete_sound h _
    · exact complete_sound (clearWritten_sound h _) _

theorem takeSendNotice_sound (h : s.Sound) : s.takeSendNotice.Sound := by
  unfold State.takeSendNotice
  split
  next ha =>
    split
    · split
      · exact complete_sound (sound_steady h (appendOutbound_steady (takesPart_of_active ha) _)) _
      · exact complete_sound h _
    · exact complete_sound h _
  next => exact complete_sound h _

theorem takeTakeNotice_sound (h : s.Sound) : s.takeTakeNotice.Sound := by
  unfold State.takeTakeNotice
  split
  · exact complete_sound h _
  · split
    · exact complete_sound h _
    · exact sound_steady h ((notices_steady s _).trans (completeBytes_steady _ _ _))

theorem takeSetThreshold_sound (h : s.Sound) : s.takeSetThreshold.Sound := by
  unfold State.takeSetThreshold
  split
  · exact sound_steady h ((notices_steady s _).trans (complete_steady _ _))
  · exact complete_sound h _

theorem takeFence_sound (h : s.Sound) : s.takeFence.Sound := by
  unfold State.takeFence
  split
  next htakes =>
    split
    · split
      · exact complete_sound (sound_steady h ((appendOutbound_steady htakes _).trans (completeFences_steady _))) _
      · exact complete_sound h _
    · exact complete_sound h _
  next => exact complete_sound h _

theorem takeTakeEvent_sound (h : s.Sound) : s.takeTakeEvent.Sound := by
  unfold State.takeTakeEvent
  split
  · exact complete_sound h _
  next e rest _ =>
    exact sound_steady h (Steady.trans (t := { s with events := rest, eventOverflow := false }) {} (completeBytes_steady _ _ _))

theorem takeWindowStatus_sound (h : s.Sound) : s.takeWindowStatus.Sound := by
  unfold State.takeWindowStatus
  split
  · exact complete_sound h _
  · split
    · exact complete_sound h _
    · exact sound_steady h (completeBytes_steady _ _ _)

theorem takeRosterStatus_sound (h : s.Sound) : s.takeRosterStatus.Sound := by
  unfold State.takeRosterStatus
  split
  · split
    · exact sound_steady h (completeBytes_steady _ _ _)
    · exact sound_steady h (completeBytes_steady _ _ _)
  · exact complete_sound h _

/-- The gate of R165 lets no command but RESET_STATION past a CONFIGURE in flight. -/
theorem issue_sound (h : s.Sound) : s.issue.Sound := by
  unfold State.issue
  split
  · exact complete_sound h _
  next hg =>
    by_cases hcode : s.commandCode.toNat = 4
    · rw [hcode]
      exact takeReset_sound s
    · have hflight : s.inFlight = none := by
        by_contra hne
        refine hg ?_
        unfold State.gated
        simp [Option.isSome_iff_ne_none.2 hne, hcode]
      exact runCommand_of_all _ (takeConfigure_sound h) (takeJoin_sound h hflight) (takeLeave_sound h) (takeReset_sound s)
        (takeDeclare_sound h) (takeResync_sound h) (takeWatch_sound h) (takeClearWritten_sound h) (takeSendNotice_sound h)
        (takeTakeNotice_sound h) (takeSetThreshold_sound h) (takeFence_sound h) (takeTakeEvent_sound h)
        (takeWindowStatus_sound h) (takeRosterStatus_sound h) (sound_steady h (completeBytes_steady _ _ _))
        (complete_sound h _)

theorem command_sound (h : s.Sound) (code : Nat) (operands : List Word) (tag : Word) : (s.command code operands tag).Sound := by
  have hfilled : (s.fillCommand code operands tag).Sound := sound_steady h (region_steady s _)
  exact issue_sound hfilled

theorem configureDone_idle (c : ConfigureInFlight) (hs : s.station = .unconfigured ∨ s.station = .configured) :
    (s.configureDone c).station ≠ .active := by
  have hframe := installed_eq (readRawProfile c.staged) hs
  have hno : s.station ≠ .active := by rcases hs with hs | hs <;> rw [hs] <;> decide
  unfold State.configureDone
  dsimp only
  split
  · exact hno
  · change ((s.installProfile (readRawProfile c.staged)).nowConfigured.configureEvents s).station ≠ _
    rw [hframe]
    exact fun hm => nomatch hm

theorem execConfigureComplete_sound (h : s.Sound) (he : execConfigureComplete s = .next t) : t.Sound := by
  unfold execConfigureComplete at he
  split at he <;> cases he
  · exact h
  next c hc =>
    exact ((agrees_of_sound h).configureDone hc).sound_idle (configureDone_idle c (h.profile.inFlight (by rw [hc]; exact nofun)))

/-! ## The store -/

theorem execInitPassStep_sound (h : s.Sound) (he : execInitPassStep s = .next t) : t.Sound := by
  unfold execInitPassStep at he
  split at he
  · cases he; exact h
  next b hb =>
    have hs : s.station = .initialising := h.profile.initPass.1 (by rw [hb]; exact nofun)
    split at he
    · generalize List.replicate 16 (0 : Word) = words at he
      have hzeroed := sound_steady h (writeStore_steady s b 0 words)
      have hz : (s.writeStore b 0 words).station = .initialising := hs
      generalize s.writeStore b 0 words = z at *
      dsimp only at he
      split at he <;> cases he
      · have ho : z.station.takesPart = false := by rw [hz]; rfl
        have hq := hzeroed.quiet.roster (by rw [hz]; rfl)
        exact Agrees.sound_idle (Agrees.idle (agrees_of_sound hzeroed) ho ho
          (clockAgrees_congr hzeroed.clock rfl rfl rfl rfl rfl Iff.rfl) ⟨iff_of_true nofun hz, hzeroed.profile.installed,
          hzeroed.profile.limit, hzeroed.profile.inFlight⟩ fun _ => hq) (by rw [hz]; decide)
      · exact ((agrees_of_sound hzeroed).initDone hz).sound_idle fun hm => nomatch hm
    · cases he

theorem hostFault_steady (s : State) (a : HostAccess) (kind : AccessFault) : Steady s (s.hostFault a kind) := {}

theorem respond_steady (s : State) (r : BusResponse) : Steady s (s.respond r) := {}

theorem accessStore_steady {a : HostAccess} (he : s.accessStore a = .next t) : Steady s t := by
  unfold State.accessStore at he
  split at he
  · cases he
  · split at he
    · split at he <;> cases he
      · exact respond_steady s _
      · exact (writeStore_steady s _ _ _).trans (respond_steady _ _)
    · cases he

theorem accessQueue_steady (htakes : s.station.takesPart = true) (a : HostAccess) (v : Word) :
    Steady s (s.accessQueue a v) := by
  unfold State.accessQueue
  split
  · exact .refl s
  · refine Steady.trans ?_ (respond_steady _ _)
    unfold State.takeWrite
    split
    · exact { outbound := fun ho => absurd htakes (by rw [ho]; exact Bool.false_ne_true) }
    · exact appendOutbound_steady htakes _

theorem decideAccess_steady {a : HostAccess} (he : s.decideAccess a = .next t) : Steady s t := by
  unfold State.decideAccess at he
  split at he
  · cases he
    exact hostFault_steady _ _ _
  · split at he
    · exact accessStore_steady he
    · split at he
      next htakes => cases he; exact accessQueue_steady htakes _ _
      next => exact accessStore_steady he

theorem execHostDataAccess_sound {address : BitVec 20} {lanes : Lanes} {access : BusAccess} (h : s.Sound)
    (he : execHostDataAccess address lanes access s = .next t) : t.Sound := by
  unfold execHostDataAccess at he
  dsimp only at he
  split at he
  · cases he; exact h
  · split at he
    · cases he
      exact sound_steady (s := s) h {}
    · exact sound_steady h (decideAccess_steady he)

theorem execHostStoreClaimGranted_sound (h : s.Sound) (he : execHostStoreClaimGranted s = .next t) : t.Sound := by
  unfold execHostStoreClaimGranted at he
  split at he
  · cases he; exact h
  · split at he
    · have hreleased : State.Sound { s with hostClaim := none } := sound_steady (s := s) h {}
      unfold State.decideClaim at he
      split at he
      · cases he
        exact sound_steady hreleased (hostFault_steady _ _ _)
      · exact sound_steady hreleased (decideAccess_steady he)
    · cases he; exact h

theorem execUpdateApplied_sound (h : s.Sound) (he : execUpdateApplied s = .next t) : t.Sound := by
  unfold execUpdateApplied at he
  split at he
  next peer w b first words rest _ =>
    split at he <;> cases he
    have hclaimed : State.Sound { s with frameClaims := rest } := sound_steady (s := s) h {}
    have hwritten := setWritten_sound (sound_steady hclaimed (writeStore_steady _ b first words)) w
    unfold State.applyUpdate
    dsimp only
    split
    · exact hwritten
    · exact sound_steady (s := State.setWritten (State.writeStore { s with frameClaims := rest } b first words) w) hwritten {}
  next => cases he; exact h

theorem execCopiedBlockWritten_sound (h : s.Sound) (he : execCopiedBlockWritten s = .next t) : t.Sound := by
  unfold execCopiedBlockWritten at he
  split at he
  next w b words rest _ =>
    split at he <;> cases he
    have hclaimed : State.Sound { s with frameClaims := rest } := sound_steady (s := s) h {}
    exact setWritten_sound (sound_steady hclaimed (writeStore_steady _ b 0 words)) w
  next => cases he; exact h

/-! ## The step -/

theorem exec_sound (h : s.Sound) (he : exec i s = .next t) : t.Sound := by
  cases rowKind i with
  | line hl => exact exec_ofLine_sound h hl he
  | command hc =>
    cases (hc s).symm.trans he
    exact command_sound h _ _ _
  | reset =>
    cases he
    exact reset_sound _ _ _ _ _ _ (.inl ⟨rfl, nofun⟩)
  | init => exact execInitPassStep_sound h he
  | access => exact execHostDataAccess_sound h he
  | claim => exact execHostStoreClaimGranted_sound h he
  | region word lanes value =>
    change execControlRegionWrite word lanes value s = _ at he
    unfold execControlRegionWrite at he
    dsimp only at he
    split at he
    · cases he
      exact sound_steady h (region_steady s _)
    · split at he <;> cases he
      · exact issue_sound h
      · exact h
  | configured => exact execConfigureComplete_sound h he
  | applied => exact execUpdateApplied_sound h he
  | copied => exact execCopiedBlockWritten_sound h he
  | copyRead => exact execCopyReadGranted_sound h he

theorem countDown_isSome (n : Option Nat) : (countDown n).isSome = n.isSome := by
  cases n <;> rfl

/-- A byte time moves the clock's position and timers, and starts or stops none. -/
theorem byteTime_steady (s : State) : Steady s s.byteTime := by
  have htick (mode : ClockMode) (f : Option Filling) (pending : List Instr) :
      Steady s { s with clock := s.clock.tick mode, filler := f, pending := pending } := by
    cases mode with
    | stopped => exact {}
    | free => exact { quiet := countDown_isSome _, join := countDown_isSome _, standoff := countDown_isSome _ }
    | running =>
      exact { position := Option.isSome_map, quiet := countDown_isSome _, join := countDown_isSome _,
              standoff := countDown_isSome _ }
  unfold State.byteTime
  dsimp only
  split
  · exact htick _ _ s.pending
  · exact htick _ _ _

/-- Settles O57: a byte time changes nothing that the parts rest on, and every row keeps them. -/
theorem everyStepKeepsTheStationSound : Obligations.EveryStepKeepsTheStationSound := by
  intro s t h he
  unfold step at he
  split at he
  · cases he
    exact sound_steady h (byteTime_steady s)
  next c rest _ =>
    have htaken : State.Sound { s with pending := rest } := sound_steady (s := s) h {}
    exact exec_sound htaken he

end Sys2Proof.Proofs

/-! The receiver (R52 to R55) and the receptions of the frames that are counted alone, of notices and of copied blocks. -/

namespace Sys2Proof.Proofs

-- One proof at a time: every further thread of the elaborator counts against the memory limit.
set_option Elab.async false

open Sys2Proof Sys2Proof.Machine Sys2Proof.Laws

variable {s t u : State} {p : Profile} {h : Header} {a : Account}

/-! ## The receiver -/

/-- What the row of a frame's reception does with a frame that is taken. -/
def receptionAct (f : Frame) (instant : Nat) (order : List RoundEndTask) (s : State) : State :=
  match f.body with
  | .opn digest cold leaving current => (s.openReported f.header digest cold leaving current instant order).tryBegin
  | .close updates frames touched => s.applying fun s => (s.takeClose f.header updates frames touched).tryBegin
  | .upd w first block words => s.applying fun s => (s.takeUpd f.header w first block words).tryBegin
  | .ntc target level tag => s.applying fun s => s.underAccount f.header fun s => s.takeNtc f.header target level tag
  | .creq w _ first last => s.applying fun s => s.underAccount f.header fun s => s.takeCreq f.header.sender w first last
  | .cbeg joiner w _ _ => s.applying fun s => s.underAccount f.header fun s =>
      if s.isSelf joiner then s.joinerCbeg f.header.sender w else s.withdrawOffer joiner w
  | .cblk joiner w block words => s.applying fun s => s.underAccount f.header fun s =>
      if s.isSelf joiner then s.joinerCblk f.header.sender w block.toNat words else s
  | .cend joiner w _ => s.applying fun s => s.underAccount f.header fun s =>
      if s.isSelf joiner then (s.joinerCend f.header.sender w).tryBegin else s
  | .ccan donor w => s.applying fun s => s.underAccount f.header fun s =>
      if s.isSelf donor then s.takeCcan f.header.sender w else s
  | .cabt joiner w => s.applying fun s => s.underAccount f.header fun s =>
      if s.isSelf joiner then (s.joinerCabt f.header.sender w).tryBegin else s

theorem exec_receptionRow (f : Frame) (instant : Nat) (order : List RoundEndTask) (s : State) :
    exec (receptionRow f instant order) s = .next (s.receive f.header f.body (receptionAct f instant order)) := by
  obtain ⟨header, body⟩ := f
  cases body <;> rfl

theorem hears_iff : s.hears = true ↔ s.station.onLine = true ∧ s.transmitter = none := by
  simp [State.hears]

theorem hears_false (h : s.station.onLine = false ∨ s.transmitter ≠ none) : s.hears = false := by
  rw [Bool.eq_false_iff]
  intro hh
  obtain ⟨hon, hidle⟩ := hears_iff.1 hh
  rcases h with h | h
  · rw [hon] at h; cases h
  · exact h hidle

theorem corruptReport_eq (hp : s.profile = some p) : s.corruptReport = { s with
    clock := { s.clock with quiet := s.clock.quiet.map fun _ => p.quietLength }, account := s.withCorrupt } := by
  have hactivity := lineActivity_eq hp
  unfold State.corruptReport State.withCorrupt
  split <;> rw [hactivity]
  rfl

/-- Reporting a corrupt reception and putting the receiver in a state are independent. -/
theorem corruptReport_setReceiver (s : State) (r : Receiver) :
    (s.setReceiver r).corruptReport = s.corruptReport.setReceiver r := by
  unfold State.corruptReport State.lineActivity
  change (if s.station.takesPart = true then _ else _) = _
  split <;> cases hp : s.profile <;> simp [State.setReceiver, State.countCorrupt, hp]

/-- Whether a frame is malformed rests on the profile and the windows alone. -/
theorem malformed_congr (hprofile : t.profile = s.profile) (hwindows : t.windows = s.windows) (h : Header) (b : FrameBody) :
    t.malformed h b = s.malformed h b := by
  cases s
  cases t
  cases hprofile
  cases hwindows
  rfl

theorem endDiscardRun_transmitter (s : State) : s.endDiscardRun.transmitter = s.transmitter := by
  unfold State.endDiscardRun State.corruptReport State.lineActivity
  split
  · split <;> cases s.profile <;> rfl
  · rfl

/-- Behind the report of a discard run by LEAD_FOUND the frame is received as it would have been before it. -/
theorem receive_behindLead (hidle : s.transmitter = none) {b : FrameBody}
    (act : State → State) (he : exec .leadFound s = .next t) : t.receive h b act = s.receive h b act := by
  cases he
  split
  next hh =>
    have hsteady := endDiscardRun_steady s
    have hdrives := endDiscardRun_transmitter s
    generalize hready : s.endDiscardRun = r at *
    have hheard : s.hearsFrame b = true := hearsFrame_iff.2 (.inl (hears_iff.1 hh))
    have hheard' : (r.setReceiver .receiving).hearsFrame b = true := by
      refine hearsFrame_iff.2 (.inl ⟨?_, hdrives.trans hidle⟩)
      change r.station.onLine = true
      rw [hsteady.station]
      exact (hears_iff.1 hh).1
    have hmalformed : (r.setReceiver .receiving).malformed h b = s.malformed h b :=
      malformed_congr hsteady.profile hsteady.windows h b
    unfold State.receive
    rw [if_pos hheard, if_pos hheard', hready, hmalformed]
    rfl
  next => rfl

theorem receive_malformed (hh : s.hears = true) (hd : s.receiver ≠ .discarding) {b : FrameBody} (act : State → State)
    (hbad : s.malformed h b = true) : s.receive h b act = s.corruptReport.setReceiver .hunting := by
  have hheard : s.hearsFrame b = true := hearsFrame_iff.2 (.inl (hears_iff.1 hh))
  have hready : s.endDiscardRun = s := if_neg hd
  unfold State.receive
  rw [if_pos hheard]
  dsimp only
  rw [if_pos hbad, hready, corruptReport_setReceiver]

theorem applying_idle (act : State → State) (h : s.station.takesPart = false) : s.applying act = s := by
  unfold State.applying
  rw [if_neg (by rw [h]; exact Bool.false_ne_true)]

/-- Taking no part, the station acts on no frame but an OPEN. -/
theorem receptionAct_idle (f : Frame) (instant : Nat) (order : List RoundEndTask) (ho : s.station.takesPart = false)
    (hopen : ¬ kindIsOpen f.body) : receptionAct f instant order s = s := by
  obtain ⟨header, body⟩ := f
  cases body with
  | opn digest cold leaving current => exact absurd ⟨digest, cold, leaving, current, rfl⟩ hopen
  | _ =>
    unfold receptionAct
    exact applying_idle _ ho

theorem tryBegin_idle (ha : s.station ≠ .active) : s.tryBegin = s := tryBegin_none (if_neg fun hc => ha hc.1)

theorem openReported_off (hs : s.station = .standoff ∨ s.station = .muted) (h : Header) (digest : Half)
    (cold leaving : Bool) (current : WindowSet) (instant : Nat) (order : List RoundEndTask) :
    s.openReported h digest cold leaving current instant order = s := by
  unfold State.openReported
  split
  · rfl
  · rcases hs with hs | hs <;> rw [hs]

/-- In STANDOFF and MUTED the station acts on no frame at all. -/
theorem receptionAct_off (f : Frame) (instant : Nat) (order : List RoundEndTask)
    (hs : s.station = .standoff ∨ s.station = .muted) : receptionAct f instant order s = s := by
  have ho : s.station.takesPart = false := by rcases hs with hs | hs <;> rw [hs] <;> rfl
  obtain ⟨header, body⟩ := f
  cases body with
  | opn digest cold leaving current =>
    change (s.openReported _ _ _ _ _ _ _).tryBegin = s
    rw [openReported_off hs]
    exact tryBegin_idle (by rcases hs with hs | hs <;> rw [hs] <;> decide)
  | _ =>
    unfold receptionAct
    exact applying_idle _ ho

/-- Settles O28. -/
theorem receiverFollowsTheLine : Obligations.ReceiverFollowsTheLine := by
  refine ⟨fun s p hp => ⟨fun hon hidle => ?_, fun hdeaf => ?_⟩, fun f instant order s t he => ⟨?_, ?_, ?_⟩,
    fun f instant order s p hp ht hidle => ?_⟩
  · have hh : s.hears = true := hears_iff.2 ⟨hon, hidle⟩
    have hreport := corruptReport_eq hp
    refine ⟨congrArg _ (if_pos hh), ?_, ?_⟩
    · change Host.Outcome.next (if s.hears = true then _ else _) = _
      rw [if_pos hh, hreport]
      rfl
    · change Host.Outcome.next (if s.hears = true then _ else _) = _
      rw [if_pos hh]
      unfold State.endDiscardRun
      split
      · rw [hreport]
        rfl
      · rfl
  · have hh := Bool.eq_false_iff.1 (hears_false hdeaf)
    exact ⟨congrArg _ (if_neg hh), congrArg _ (if_neg hh), congrArg _ (if_neg hh)⟩
  · intro hdeaf hcold
    rw [exec_receptionRow, receive_deaf _ hdeaf hcold]
  · intro _ hidle
    rw [exec_receptionRow, exec_receptionRow, receive_behindLead hidle _ he]
  · intro hon hidle hd hbad
    have hh : s.hears = true := hears_iff.2 ⟨hon, hidle⟩
    rw [exec_receptionRow, receive_malformed hh hd _ hbad]
    exact congrArg _ (if_pos hh).symm
  · rw [exec_receptionRow, receive_takes _ hp ht]
    congr 1
    rcases hidle with ⟨ho, hopen⟩ | hs
    · exact receptionAct_idle f instant order ho hopen
    · exact receptionAct_off f instant order hs

/-! ## Frames under an account -/

/-- Settles O36: without an account the frame is dropped, and one that names another station is counted alone. -/
theorem framesForOthersAreCountedAlone : Obligations.FramesForOthersAreCountedAlone := by
  intro s p f instant order hp htakes ht hkind
  obtain ⟨header, body⟩ := f
  have hpart : (s.heard p).station.takesPart = true := htakes
  refine ⟨fun hdropped => ?_, fun a ha hother => ?_⟩
  · have hdropped' : (s.heard p).foreignSender header.sender = true ∨
        ∀ a, (s.heard p).account = some a → a.sender ≠ header.sender := hdropped
    rw [exec_receptionRow, receive_takes _ hp ht]
    congr 1
    unfold receptionAct
    cases body with
    | opn | close | upd => exact hkind.elim
    | _ => exact (applying_takes _ hpart).trans (underAccount_dropped _ hdropped')
  · rw [exec_receptionRow]
    congr 1
    have hself (x : StationNo) (hx : x ≠ p.station) : ¬ (s.counted p a).isSelf x = true := by
      have hp' : (s.counted p a).profile = some p := hp
      simpa only [State.isSelf, hp', decide_eq_true_eq] using hx.symm
    cases body with
    | cblk joiner | cend joiner | cabt joiner =>
      exact (receive_underAccount _ hp ht ha).trans (if_neg (hself joiner hother))
    | ccan donor => exact (receive_underAccount _ hp ht ha).trans (if_neg (hself donor hother))
    | _ => exact hother.elim

/-! ## Notices -/

theorem levelIndex_of_toNat {level : BitVec 3} {i : Fin 7} (h : level.toNat = i.val + 1) : levelIndex level = some i := by
  have hi := i.isLt
  unfold levelIndex
  rw [dif_pos ⟨by omega, by omega⟩]
  congr 1
  exact Fin.ext (by simp [h])

/-- Settles O35, by the corrupt tally of the account. -/
theorem noticeIsDeliveredOrHeld : Obligations.NoticeIsDeliveredOrHeld := by
  intro s p h target level tag a i hp ht ha hlevel
  have hexec : exec (.ntcReceived h target level tag) s = .next ((s.counted p a).takeNtc h target level tag) :=
    congrArg Host.Outcome.next (receive_underAccount _ hp ht ha)
  have hp' : (s.counted p a).profile = some p := hp
  rw [hexec]
  refine ⟨fun hother hall => ?_, fun hmine => ⟨_, rfl, ?_⟩⟩
  · have hno : ¬ ((s.counted p a).isSelf target || decide (target = 255)) = true := by
      rw [Bool.or_eq_true, decide_eq_true_eq]
      rintro (hself | heq)
      · simp only [State.isSelf, hp', decide_eq_true_eq] at hself
        exact hother hself.symm
      · exact hall heq
    congr 1
    exact if_neg hno
  · have hyes : ((s.counted p a).isSelf target || decide (target = 255)) = true := by
      rcases hmine with rfl | rfl
      · rw [isSelf_of_profile hp', Bool.true_or]
      · exact Bool.or_true _
    have htaken : (s.counted p a).takeNtc h target level tag =
        (s.counted p a).takeNotice ⟨h.sender, level, tag, s.clock.round⟩ := if_pos hyes
    have haccount : (s.counted p a).account = some { a with frames := countUp a.frames } := rfl
    rw [htaken, State.takeNotice, haccount]
    dsimp only
    split
    next hclean =>
      have hdelivered : (s.counted p a).deliver ⟨h.sender, level, tag, s.clock.round⟩ = { s.counted p a with
          notices := s.notices.setQueue i ((s.notices.queue i).arrive ⟨h.sender, level, tag, s.clock.round⟩) } := by
        rw [State.deliver, levelIndex_of_toNat hlevel]
        rfl
      rw [hdelivered]
      exact ⟨(queue_setQueue _ _ _ _).trans (if_pos rfl), fun j hj => (queue_setQueue _ _ _ _).trans (if_neg hj.symm),
        rfl, rfl⟩
    next => split <;> simp_all [State.counted, Config.heldCapacity]

/-! ## Copied blocks -/

theorem joinerCblk_stray {sender : StationNo} {w : WindowNo} {block : Nat} {words : List Word} {c : CatchUp}
    (hc : s.catchUp = some c)
    (h : ∀ donor stall received, c.phase = .copying donor stall received → ¬ (c.window = w ∧ donor = sender)) :
    s.joinerCblk sender w block words = strayAnswered s c sender w := by
  obtain ⟨cw, n, phase, cancelled⟩ := c
  rw [← stray_of_some false hc, State.joinerCblk, hc]
  cases phase with
  | requested wait => rfl
  | copying donor stall received => exact if_neg (h donor stall received rfl)

theorem joinerCblk_none {sender : StationNo} {w : WindowNo} {block : Nat} {words : List Word} (hc : s.catchUp = none) :
    s.joinerCblk sender w block words = s := by
  rw [State.joinerCblk, hc]
  dsimp only
  rw [State.stray, hc]
  rfl

theorem joinerCblk_donor {sender : StationNo} {w : WindowNo} {block : Nat} {words : List Word} {n stall : Nat}
    {received : List Nat} {cancelled : List StationNo} (hp : s.profile = some p)
    (hc : s.catchUp = some ⟨w, n, .copying sender stall received, cancelled⟩) :
    s.joinerCblk sender w block words =
      match (s.window w).storeBlock block with
      | none => s
      | some b => { s with
          frameClaims := s.frameClaims ++ [.copied w b words]
          catchUp := some ⟨w, n, .copying sender p.copyStall (addOnce block received), cancelled⟩ } := by
  rw [State.joinerCblk, hc, copyStall_of_profile hp]
  refine (if_pos ⟨rfl, rfl⟩).trans ?_
  cases (s.window w).storeBlock block <;> rfl

/-- Settles O40, by the record of the attempt. -/
theorem copiedBlockIsAdmittedFromTheDonor : Obligations.CopiedBlockIsAdmittedFromTheDonor := by
  intro s p h w block words a hp ht ha
  have hp' : (s.counted p a).profile = some p := hp
  have hexec : exec (.cblkReceived h p.station w block words) s =
      .next ((s.counted p a).joinerCblk h.sender w block.toNat words) :=
    congrArg Host.Outcome.next ((receive_underAccount _ hp ht ha).trans (if_pos (isSelf_of_profile hp')))
  rw [hexec]
  congr 1
  cases hc : s.catchUp with
  | none => exact joinerCblk_none (s := s.counted p a) hc
  | some c =>
    obtain ⟨cw, n, phase, cancelled⟩ := c
    cases phase with
    | requested wait => exact joinerCblk_stray (s := s.counted p a) hc fun _ _ _ hphase => nomatch hphase
    | copying donor stall received =>
      dsimp only
      split
      next hd =>
        obtain ⟨rfl, rfl⟩ := hd
        have hwindow : (s.counted p a).window cw = s.window cw := rfl
        rw [joinerCblk_donor (s := s.counted p a) hp' hc, hwindow]
        cases (s.window cw).storeBlock block.toNat <;> rfl
      next hd =>
        refine joinerCblk_stray (s := s.counted p a) hc fun d _ _ hphase hboth => hd ?_
        cases hphase
        exact hboth

/-! ## The end of a copy -/

theorem onLine_of_takesPart (h : s.station.takesPart = true) : s.station.onLine = true := by
  rcases takesPart_iff.1 h with hs | hs <;> rw [hs] <;> rfl

theorem counted_steady (ha : s.accounted h a) : Steady (s.heard p) (s.counted p a) where
  account ho := absurd ha.1 (by rw [show s.station.takesPart = false from ho]; exact Bool.false_ne_true)

theorem counted_sound (hs : s.Sound) (ha : s.accounted h a) : (s.counted p a).Sound :=
  sound_steady (heard_sound hs (onLine_of_takesPart ha.1)) (counted_steady ha)

theorem complete_iff {r : WindowRecord} {received : List Nat} :
    r.complete received = true ↔ ∀ i, i < r.heldCount → r.firstHeld + i ∈ received := by
  simp [WindowRecord.complete]

theorem succeed_reports {c : CatchUp} (hs : s.Sound) (hc : s.catchUp = some c) (donor : StationNo) :
    Reports s (s.succeed c donor) [⟨subjectOf c.window.val, s.clock.round, .windowState .catchingUp .current .catchUpDone 0 none⟩,
      ⟨subjectOf c.window.val, s.clock.round, .catchUpDone donor (s.window c.window).heldCount c.attempt⟩] ∧
    s.succeed c donor = { s with
      catchUp := none, events := (s.succeed c donor).events, eventOverflow := (s.succeed c donor).eventOverflow
      windows := s.windows.set c.window { s.window c.window with currency := .current, attempts := 0, coldMark := none } } := by
  have hcatching := (hs.windows.catchingUp c.window).2 ⟨c, hc, rfl⟩
  have hplain := changeCurrency_plain (s := { s with catchUp := none }) c.window .current 0 .catchUpDone none (.inr (.inl rfl))
  have hchanged := changed_reports { s with catchUp := none } c.window .current 0 .catchUpDone none
  have hcurrency : (State.window { s with catchUp := none } c.window).currency = .catchingUp := hcatching
  rw [hcurrency] at hchanged
  rw [State.succeed, hplain]
  exact ⟨(hchanged.from_eq (u := s) rfl rfl).trans (event_reports _ _ _), rfl⟩

/-- A CEND or a CABT of anyone but the donor of this window's copy is not acted on. -/
theorem joinerCend_ignored {sender : StationNo} {w : WindowNo}
    (h : ∀ c stall received, s.catchUp = some c → c.window = w → c.phase ≠ .copying sender stall received) :
    s.joinerCend sender w = s := by
  unfold State.joinerCend
  split
  next cw n donor stall received cancelled hc =>
    refine if_neg fun ⟨hw, hd⟩ => ?_
    subst hd
    exact h _ _ _ hc hw rfl
  next => rfl

theorem joinerCabt_ignored {sender : StationNo} {w : WindowNo}
    (h : ∀ c stall received, s.catchUp = some c → c.window = w → c.phase ≠ .copying sender stall received) :
    s.joinerCabt sender w = s := by
  unfold State.joinerCabt
  split
  next cw n donor stall received cancelled hc =>
    refine if_neg fun ⟨hw, hd⟩ => ?_
    subst hd
    exact h _ _ _ hc hw rfl
  next => rfl

theorem exec_cendReceived_self {w : WindowNo} {count : Half} (hp : s.profile = some p)
    (ht : s.takes h (.cend p.station w count)) (ha : s.accounted h a) :
    exec (.cendReceived h p.station w count) s = .next ((s.counted p a).joinerCend h.sender w).tryBegin :=
  congrArg Host.Outcome.next
    ((receive_underAccount _ hp ht ha).trans (if_pos (isSelf_of_profile (s := s.counted p a) hp)))

theorem exec_cabtReceived_self {w : WindowNo} (hp : s.profile = some p) (ht : s.takes h (.cabt p.station w))
    (ha : s.accounted h a) :
    exec (.cabtReceived h p.station w) s = .next ((s.counted p a).joinerCabt h.sender w).tryBegin :=
  congrArg Host.Outcome.next
    ((receive_underAccount _ hp ht ha).trans (if_pos (isSelf_of_profile (s := s.counted p a) hp)))

/-- Settles O41, by the donor of the copy in progress. -/
theorem copyEndsOnTheDonorsWord : Obligations.CopyEndsOnTheDonorsWord := by
  intro s p h w count a hs hp ha
  have hsound : (s.counted p a).Sound := counted_sound hs ha
  have hagrees := agrees_of_sound hsound
  refine ⟨fun c stall received hc hw hphase => ?_, fun hno => ⟨fun ht => ?_, fun ht => ?_⟩⟩
  · obtain ⟨cw, n, phase, cancelled⟩ := c
    dsimp only at hw hphase
    subst hw hphase
    have hc' : (s.counted p a).catchUp = some ⟨cw, n, .copying h.sender stall received, cancelled⟩ := hc
    have hcatching : ((s.counted p a).window cw).currency = .catchingUp := (hs.windows.catchingUp cw).2 ⟨_, hc, rfl⟩
    have hfailed (kind : FailureKind) : AttemptFailed kind (s.counted p a) ((s.counted p a).failAttempt kind) :=
      failAttempt_failed kind hc' (by rw [hcatching]; decide)
        (not_mem_resync hagrees.lossReady (by rw [hcatching]; decide))
    refine ⟨fun ht => ⟨_, _, exec_cendReceived_self hp ht ha, (hagrees.joinerCend _ _).lossReady.tested, ?_⟩,
      fun ht => ⟨_, _, exec_cabtReceived_self hp ht ha, ?_, (hagrees.joinerCabt _ _).lossReady.tested⟩⟩
    · have hjoiner : (s.counted p a).joinerCend h.sender cw =
          if (s.window cw).complete received = true then
            (s.counted p a).succeed ⟨cw, n, .copying h.sender stall received, cancelled⟩ h.sender
          else (s.counted p a).failAttempt .incomplete := by
        rw [State.joinerCend, hc']
        exact if_pos ⟨rfl, rfl⟩
      rw [hjoiner]
      by_cases hall : (s.window cw).complete received = true
      · rw [if_pos hall, if_pos (complete_iff.1 hall)]
        obtain ⟨hreports, hframe⟩ := succeed_reports hsound hc' h.sender
        exact ⟨hreports.from_eq (u := s) rfl rfl, hframe⟩
      · rw [if_neg hall, if_neg fun hc => hall (complete_iff.2 hc)]
        exact hfailed _
    · have hjoiner : (s.counted p a).joinerCabt h.sender cw = (s.counted p a).failAttempt .donorAborted := by
        rw [State.joinerCabt, hc']
        exact if_pos ⟨rfl, rfl⟩
      rw [hjoiner]
      exact hfailed _
  · rw [exec_cendReceived_self hp ht ha, joinerCend_ignored (s := s.counted p a) hno, tryBegin_none hsound.settled]
  · rw [exec_cabtReceived_self hp ht ha, joinerCabt_ignored (s := s.counted p a) hno, tryBegin_none hsound.settled]

end Sys2Proof.Proofs

/-! The receptions of CLOSE and UPD, and of an OPEN but for one that aligns the clock (R65 to R74, R116 to R123). -/

namespace Sys2Proof.Proofs

-- One proof at a time: every further thread of the elaborator counts against the memory limit.
set_option Elab.async false

open Sys2Proof Sys2Proof.Machine Sys2Proof.Laws

variable {s t u : State} {p : Profile} {h : Header} {a : Account}

/-! ## Whose account is open -/

theorem accountOf_sender (ha : s.account = some a) (hsender : a.sender = h.sender) : s.accountOf h.sender = some a := by
  rw [State.accountOf, ha]
  exact if_pos hsender

theorem accountOf_none (ha : ∀ a, s.account = some a → a.sender ≠ h.sender) : s.accountOf h.sender = none := by
  unfold State.accountOf
  split
  · rfl
  next a hopen => exact if_neg (ha a hopen)

/-! ## CLOSE -/

/-- The account and the CLOSE contradict each other by a count or by a window (R121). -/
theorem inconsistent_iff {updates frames : Byte} {touched : WindowSet} :
    a.inconsistent updates frames touched = true ↔ updates.toNat < a.updates ∨ frames.toNat < a.frames ∨
      ∃ n, WindowSet.has a.windows n = true ∧ WindowSet.has touched n = false := by
  have hbits : (a.windows &&& ~~~touched) ≠ 0 ↔ ∃ n, WindowSet.has a.windows n = true ∧ WindowSet.has touched n = false := by
    constructor
    · intro hne
      by_contra hno
      refine hne (BitVec.eq_of_getLsbD_eq fun i hi => ?_)
      by_contra hbit
      simp only [BitVec.getLsbD_and, BitVec.getLsbD_not, hi, decide_true, Bool.true_and, BitVec.ofNat_eq_ofNat,
        BitVec.getLsbD_zero, Bool.not_eq_false, Bool.and_eq_true, Bool.not_eq_true'] at hbit
      exact hno ⟨⟨i, hi⟩, hbit⟩
    · rintro ⟨n, hn, hnot⟩ hzero
      have hbit : (a.windows &&& ~~~touched).getLsbD n.val = false := by rw [hzero]; simp
      unfold WindowSet.has at hn hnot
      rw [BitVec.getLsbD_and, BitVec.getLsbD_not, hn, hnot, decide_eq_true n.isLt] at hbit
      cases hbit
  simp only [Account.inconsistent, Bool.or_eq_true, decide_eq_true_eq, bne_iff_ne, hbits, or_assoc]

theorem exec_closeReceived {updates frames : Byte} {touched : WindowSet} (hp : s.profile = some p)
    (htakes : s.station.takesPart = true) (ht : s.takes h (.close updates frames touched)) :
    exec (.closeReceived h updates frames touched) s = .next ((s.heard p).takeClose h updates frames touched).tryBegin :=
  congrArg Host.Outcome.next ((receive_takes _ hp ht).trans (applying_takes _ htakes))

/-- Settles O33, by whose account is open. -/
theorem closeIsCheckedAgainstItsAccount : Obligations.CloseIsCheckedAgainstItsAccount := by
  intro s p h updates frames touched hs hp htakes ht
  have hheard : (s.heard p).Sound := heard_sound hs (onLine_of_takesPart htakes)
  have htested := ((agrees_of_sound hheard).takeClose h updates frames touched).lossReady.tested
  rw [exec_closeReceived hp htakes ht]
  refine ⟨fun hforeign => ?_, fun a ha => ?_, fun hknown hnone => ?_⟩
  · have hignored : (s.heard p).takeClose h updates frames touched = s.heard p := if_pos hforeign
    rw [hignored, tryBegin_none hheard.settled]
  · obtain ⟨-, hknown, haccount, hsender⟩ := ha
    have hclosed : (s.heard p).takeClose h updates frames touched =
        (State.checkClose { s.heard p with account := none } a updates frames touched).finishAccount a := by
      have hof : (s.heard p).accountOf h.sender = some a := accountOf_sender haccount hsender
      rw [State.takeClose, if_neg (ne_true_of_eq_false (by exact hknown)), hof]
    rw [hclosed] at htested ⊢
    have hready : LossReady { s.heard p with account := none } := (agrees_of_sound hheard).lossReady.of_eq rfl rfl rfl rfl rfl
    have hafter : Agrees (State.checkClose { s.heard p with account := none } a updates frames touched) :=
      ((agrees_of_sound hheard).setAccount none fun _ => rfl).checkClose _ _ _ _
    refine ⟨_, _, _, _, rfl, rfl, ?_, finishAccount_finished a hafter.lossReady, htested⟩
    unfold State.checkClose
    by_cases hbad : a.inconsistent updates frames touched = true
    · rw [if_pos hbad, if_pos (inconsistent_iff.1 hbad), hsender]
      exact ⟨_, event_reports _ _ _, rfl, losses_taken _ (hready.of_eq rfl rfl rfl rfl rfl)⟩
    · rw [if_neg hbad, if_neg fun hc => hbad (inconsistent_iff.2 hc)]
      split
      · exact losses_taken _ hready
      · split
        · rw [hsender]
          exact ⟨event_reports _ _ _, rfl⟩
        · exact ⟨.refl _, rfl⟩
  · have hunopened : (s.heard p).takeClose h updates frames touched =
        (s.heard p).checkUnopened h updates frames touched := by
      have hof : (s.heard p).accountOf h.sender = none := accountOf_none hnone
      rw [State.takeClose, if_neg (ne_true_of_eq_false (by exact hknown)), hof]
    rw [hunopened] at htested ⊢
    refine ⟨_, _, rfl, ?_, htested⟩
    unfold State.checkUnopened
    split
    · exact losses_taken _ (agrees_of_sound hheard).lossReady
    · split
      · have hreports := event_reports (s.heard p) (subjectOf h.sender.toNat)
          (.slotLoss .unopened h.slotIndex none 0 0 (some (frames, updates)) 0)
        exact ⟨hreports.from_eq (u := s) rfl rfl, rfl⟩
      · exact ⟨(Reports.refl (s.heard p)).from_eq (u := s) rfl rfl, rfl⟩

/-! ## UPD -/

theorem exec_updReceived {w : WindowNo} {first : BitVec 4} {block : BitVec 10} {words : List Word} (hp : s.profile = some p)
    (htakes : s.station.takesPart = true) (ht : s.takes h (.upd w first block words)) :
    exec (.updReceived h w first block words) s = .next ((s.heard p).takeUpd h w first block words).tryBegin :=
  congrArg Host.Outcome.next ((receive_takes _ hp ht).trans (applying_takes _ htakes))

/-- An update frame is admitted as one frame claim, or not at all (R118). -/
theorem admitUpdate_eq (s : State) (peer : Option StationNo) (w : WindowNo) (first : BitVec 4) (block : BitVec 10)
    (words : List Word) : s.admitUpdate peer w first block words = { s with
    frameClaims := s.frameClaims ++
      if (s.window w).currency = .current ∨ (s.window w).currency = .catchingUp then
        match (s.window w).storeBlock block.toNat with
        | none => []
        | some b => [.update peer w b first.toNat words]
      else [] } := by
  have hadmits : (s.window w).admits = true ↔ (s.window w).currency = .current ∨ (s.window w).currency = .catchingUp := by
    simp [WindowRecord.admits]
  unfold State.admitUpdate
  by_cases ha : (s.window w).admits = true
  · rw [if_pos ha, if_pos (hadmits.1 ha)]
    cases (s.window w).storeBlock block.toNat with
    | none => simp
    | some b => rfl
  · rw [if_neg ha, if_neg fun hc => ha (hadmits.2 hc)]
    simp

/-- The test of R129 reads neither the open account nor the frame claims. -/
theorem claimed_settled (hn : s.nextTried = none) (a : Option Account) (claims : List FrameClaim) :
    State.nextTried { s with account := a, frameClaims := claims } = none := hn

/-- Settles O34, by whose account is open. -/
theorem updateIsClaimedOrLost : Obligations.UpdateIsClaimedOrLost := by
  intro s p h w first block words hs hp htakes ht
  have hheard : (s.heard p).Sound := heard_sound hs (onLine_of_takesPart htakes)
  rw [exec_updReceived hp htakes ht]
  refine ⟨fun hforeign => ?_, fun a ha => ?_, fun hknown hnone => ?_⟩
  · have hignored : (s.heard p).takeUpd h w first block words = s.heard p := if_pos hforeign
    rw [hignored, tryBegin_none hheard.settled]
  · obtain ⟨-, hknown, haccount, hsender⟩ := ha
    have hcounted : (s.heard p).countFrame.countUpdate w = { s.heard p with account := some { a with
        frames := countUp a.frames, updates := countUp a.updates, windows := WindowSet.add a.windows w } } := by
      have haccount' : (s.heard p).account = some a := haccount
      unfold State.countUpdate State.countFrame
      rw [haccount']
      rfl
    have htaken : (s.heard p).takeUpd h w first block words =
        ((s.heard p).countFrame.countUpdate w).admitUpdate (some h.sender) w first block words := by
      have hof : (s.heard p).accountOf h.sender = some a := accountOf_sender haccount hsender
      rw [State.takeUpd, if_neg (ne_true_of_eq_false (by exact hknown)), hof]
    rw [htaken, hcounted, admitUpdate_eq]
    exact congrArg Host.Outcome.next (tryBegin_none (claimed_settled hheard.settled _ _))
  · have hlost : (s.heard p).takeUpd h w first block words = (s.heard p).losses fun n => decide (n = w) := by
      have hof : (s.heard p).accountOf h.sender = none := accountOf_none hnone
      rw [State.takeUpd, if_neg (ne_true_of_eq_false (by exact hknown)), hof, losses_one]
    rw [hlost]
    exact ⟨_, _, rfl, losses_taken _ (agrees_of_sound hheard).lossReady, ((agrees_of_sound hheard).losses _).lossReady.tested⟩

/-! ## What an OPEN does, part by part -/

theorem exec_openReceived {digest : Half} {cold leaving : Bool} {current : WindowSet} (instant : Nat)
    (order : List RoundEndTask) (hp : s.profile = some p) (ht : s.takes h (.opn digest cold leaving current)) :
    exec (.openReceived h digest cold leaving current instant order) s =
      .next ((s.heard p).openReported h digest cold leaving current instant order).tryBegin :=
  congrArg Host.Outcome.next (receive_takes _ hp ht)

theorem foreignOpen_iff {digest : Half} : p.foreignOpen h digest = true ↔
    digest ≠ p.digest ∨ p.slots ≤ h.slotIndex.toNat ∨ p.allotment[h.slotIndex.toNat]? ≠ some h.sender := by
  simp only [Profile.foreignOpen, Bool.or_eq_true, bne_iff_ne, decide_eq_true_eq, or_assoc]

/-- An OPEN of the same line, of a slot that is its sender's. -/
theorem foreignOpen_own (hslot : h.slotIndex.toNat < p.slots) (howner : p.allotment[h.slotIndex.toNat]? = some h.sender) :
    ¬ p.foreignOpen h p.digest = true := fun hf => by
  rcases foreignOpen_iff.1 hf with hd | hk | ho
  · exact hd rfl
  · exact Nat.not_le.2 hslot hk
  · exact ho howner

section
variable {digest : Half} {cold leaving : Bool} {current : WindowSet} {instant : Nat} {order : List RoundEndTask}

theorem openReported_listening (hp : s.profile = some p) (hs : s.station = .listening) :
    s.openReported h digest cold leaving current instant order = s.openListening p h digest cold leaving current := by
  rw [State.openReported, hp]
  dsimp only
  rw [hs]

theorem running_iff {station : StationState} :
    station.clockMode = .running ↔ station = .coldStart ∨ station = .active ∨ station = .leaving := by
  cases station <;> decide

theorem openReported_running (hp : s.profile = some p) (hm : s.station.clockMode = .running) :
    s.openReported h digest cold leaving current instant order =
      s.openRunning p h digest cold leaving current (instant % p.round) order := by
  rw [State.openReported, hp]
  dsimp only
  rcases running_iff.1 hm with hs | hs | hs <;> rw [hs] <;> rfl

end

theorem endAccount_none (ha : s.account = none) (ending : AccountEnding) : s.endAccount ending = s := by
  rw [State.endAccount, ha]

theorem endAccount_some (hr : LossReady s) (ha : s.account = some a) (ending : AccountEnding) :
    EndedUnclosed a ending s (s.endAccount ending) := by
  rw [State.endAccount, ha]
  exact endUnclosed_ended a ending hr

/-- Taking no part, the station has no account that an OPEN could end. -/
theorem takeOpen_foreign (hs : Agrees s) (h : Header) (leaving : Bool) :
    s.takeOpen h leaving true = s.endAccount .nextOpen := by
  unfold State.takeOpen
  split
  · rfl
  next ho => rw [endAccount_none (hs.quiet.account (Bool.eq_false_iff.2 ho))]

theorem takeOpen_known (hs : Agrees s) (h : Header) (leaving : Bool) :
    s.takeOpen h leaving false =
      if s.station.takesPart = true then
        { s.endAccount .nextOpen with account := some { sender := h.sender, slot := h.slotIndex, leaving := leaving } }
      else s.endAccount .nextOpen := by
  unfold State.takeOpen
  split
  · rfl
  next ho => rw [endAccount_none (hs.quiet.account (Bool.eq_false_iff.2 ho))]

theorem youngColdGrant_iff : s.youngColdGrant = true ↔ ∃ n, (s.window n).coldMark ≠ none := by
  simp [State.youngColdGrant, allWindows, Option.isSome_iff_ne_none]

/-- The cold contest is yielded or stands (R89). -/
theorem contest_judged (hr : LossReady s) (p : Profile) (x : StationNo) (cold misaligned : Bool) :
    if s.station = .active ∧ (∃ n, (s.window n).coldMark ≠ none) ∧ cold = true ∧ x.toNat < p.station.toNat then
      Yielded x misaligned s (s.contest p x cold misaligned)
    else s.contest p x cold misaligned = s := by
  have hyoung : (s.station = .active ∧ (∃ n, (s.window n).coldMark ≠ none) ∧ cold = true ∧ x.toNat < p.station.toNat) ↔
      s.station = .active ∧ s.youngColdGrant = true ∧ cold = true ∧ x.toNat < p.station.toNat := by
    rw [youngColdGrant_iff]
  unfold State.contest
  split
  next hc =>
    rw [if_pos (hyoung.1 hc)]
    exact coldYield_yielded x misaligned hc.1 hr
  next hc => exact if_neg fun hc' => hc (hyoung.2 hc')

/-- A PRESENT sender is heard, and any other arrives (R72). -/
theorem rosterHeard_heard {r : RosterRecord} (hr : s.rosterOf h.sender = some r) (cold leaving : Bool) (current : WindowSet) :
    Reports s (s.rosterHeard h cold leaving current) (if r.state = .present then []
      else [⟨subjectOf h.sender.toNat, s.clock.round, .peerArrived h.slotIndex cold⟩]) ∧
    s.rosterHeard h cold leaving current = { s with
      roster := rosterWith s.roster h.sender fun q => { q with
        state := .present, silent := 0, lastHeard := some h.round, current := s.readCurrentSet current
        leaving := leaving }
      events := (s.rosterHeard h cold leaving current).events
      eventOverflow := (s.rosterHeard h cold leaving current).eventOverflow } := by
  rw [State.rosterHeard, hr]
  dsimp only
  split
  · exact ⟨(Reports.refl s).of_eq rfl rfl, rfl⟩
  · exact ⟨(event_reports (s.updateRoster h.sender _) _ _).from_eq rfl rfl, rfl⟩

/-- The set that an OPEN gives is read by the windows' global lengths alone (R44). -/
theorem readCurrentSet_congr (hg : ∀ w, (t.window w).globalLength = (s.window w).globalLength) (current : WindowSet) :
    t.readCurrentSet current = s.readCurrentSet current := by
  have hunused : t.unused = s.unused := by
    funext w
    unfold State.unused
    rw [hg]
  unfold State.readCurrentSet
  rw [hunused]

theorem contest_globalLength (hr : LossReady s) (p : Profile) (x : StationNo) (cold misaligned : Bool) (w : WindowNo) :
    ((s.contest p x cold misaligned).window w).globalLength = (s.window w).globalLength := by
  have hjudged := contest_judged hr p x cold misaligned
  split at hjudged
  · rw [hjudged.windows]
  · rw [hjudged]

/-! ## LISTENING -/

theorem joinLine_joined (s : State) (p : Profile) (h : Header) :
    Reports s (s.joinLine p h) [⟨s.ownSubject, h.round, .stationState s.station .active .matchingOpen h.sender.toNat⟩] ∧
    s.joinLine p h = { s with
      station := .active, openFailures := 0
      clock := { s.clock with
        position := some (p.settle + h.slotIndex.toNat * p.slotLength + 20), round := h.round
        misalignedCount := 0, onTimeMark := true, misalignedMark := false, syncLoss := false
        quiet := none, join := none, standoff := none, foreignMark := false }
      resync := allWindows.filter fun w => (s.window w).isHeld
      events := (s.joinLine p h).events, eventOverflow := (s.joinLine p h).eventOverflow } := by
  refine ⟨?_, rfl⟩
  have hentered (c : Clock) : Reports s (State.enter { s with clock := c } .active .matchingOpen h.sender.toNat)
      [⟨s.ownSubject, c.round, .stationState s.station .active .matchingOpen h.sender.toNat⟩] :=
    (enter_reports { s with clock := c } _ _ _).from_eq rfl rfl
  exact (hentered _).of_eq rfl rfl

/-- Settles O29: the parts of a MATCHING OPEN, one after the other. -/
theorem openInListeningJoinsTheLine : Obligations.OpenInListeningJoinsTheLine := by
  intro s p h cold leaving current instant order r hs hp hlistening ht hslot howner hrecord
  have hheard : (s.heard p).Sound := heard_sound hs (by rw [hlistening]; rfl)
  have hlistening' : (s.heard p).station = .listening := hlistening
  rw [exec_openReceived instant order hp ht, openReported_listening (s := s.heard p) hp hlistening', State.openListening,
    if_neg (foreignOpen_own hslot howner)]
  constructor
  · intro hleaving
    rw [if_pos hleaving, hleaving]
    exact congrArg Host.Outcome.next (tryBegin_idle (by rw [State.rosterSeen]; exact fun hc => nomatch hlistening'.symm.trans hc))
  · intro hleaving
    have hnot : ¬ leaving = true := by rw [hleaving]; exact Bool.false_ne_true
    have hjoined := (agrees_of_sound hheard).joinLine hlistening' hp h
    have hnone : (s.heard p).account = none := hs.quiet.account (by rw [hlistening]; rfl)
    rw [if_neg hnot, hleaving]
    obtain ⟨hreports, hframe⟩ := joinLine_joined (s.heard p) p h
    have hrecord' : ((s.heard p).joinLine p h).rosterOf h.sender = some r := by rw [hframe]; exact hrecord
    have hset : ((s.heard p).joinLine p h).readCurrentSet current = s.readCurrentSet current := by rw [hframe]; rfl
    generalize (s.heard p).joinLine p h = j at *
    have haccount : j.account = none := by rw [hframe]; exact hnone
    have hround : j.clock.round = h.round := by rw [hframe]
    obtain ⟨harrived, hheardFrame⟩ := rosterHeard_heard hrecord' cold false current
    have hagrees := hjoined.rosterHeard h cold false current
    generalize j.rosterHeard h cold false current = k at *
    have htakes : k.station.takesPart = true := by rw [hheardFrame, hframe]; rfl
    have hnone' : k.account = none := by rw [hheardFrame]; exact haccount
    have htested := (hagrees.takeOpen h false false).lossReady.tested
    have htaken := takeOpen_known hagrees h false
    rw [if_pos htakes, endAccount_none hnone'] at htaken
    rw [htaken] at htested ⊢
    refine ⟨_, _, rfl, htested, ?_, ?_⟩
    · rw [hround] at harrived
      have hboth := (hreports.trans harrived).from_eq (u := s) rfl rfl
      rw [hlistening'] at hboth
      exact hboth.of_eq rfl rfl
    · rw [hheardFrame, hset, hframe]
      rfl

/-! ## FOREIGN -/

theorem depart_account (s : State) (station : StationNo) (next : RosterState) (cause : DepartCause) :
    (s.depart station next cause).account = s.account := by
  unfold State.depart
  split
  · rfl
  · dsimp only
    split
    · unfold State.handDeparture
      rw [joinerDeparted_side, donorDeparted_side]
      rfl
    · rfl

/-- Settles O30: the departure, then the ending of the account. -/
theorem foreignOpenIsShunned : Obligations.ForeignOpenIsShunned := by
  intro s p h digest cold leaving current instant order hs hp hstation ht hforeign
  have hforeign' := foreignOpen_iff.2 hforeign
  have hon : s.station.onLine = true := ht.1
  have hheard : (s.heard p).Sound := heard_sound hs hon
  rw [exec_openReceived instant order hp ht]
  have hshunned (u : State) (hu : Agrees u) (haccount : u.account = s.account) :
      ∃ v w t, (u.rosterForeign h).takeOpen h leaving true = w ∧ w.tryBegin = t ∧ Departed h.sender .foreign .foreign u v ∧
        (match s.account with
          | none => w = v
          | some a => EndedUnclosed a .nextOpen v w) ∧ AttemptTested w t := by
    have hdeparted : Agrees (u.rosterForeign h) := hu.depart h.sender .foreign .foreign
    refine ⟨_, _, _, rfl, rfl, depart_departed h.sender .foreign .foreign hu.lossReady, ?_,
      (hdeparted.takeOpen h leaving true).lossReady.tested⟩
    have hopen : (u.rosterForeign h).account = s.account := (depart_account _ _ _ _).trans haccount
    rw [takeOpen_foreign hdeparted]
    cases ha : s.account with
    | none => exact endAccount_none (hopen.trans ha) _
    | some a => exact endAccount_some hdeparted.lossReady (hopen.trans ha) _
  by_cases hl : s.station = .listening
  · have hjoin : s.clock.join.isSome = true := hs.clock.join.2 hl
    have hmarked : (s.heard p).openReported h digest cold leaving current instant order =
        (State.rosterForeign { s.heard p with clock := { (s.heard p).clock with foreignMark := true } } h).takeOpen h leaving
          true := by
      rw [openReported_listening (s := s.heard p) hp hl, State.openListening, if_pos hforeign', State.openForeign]
      have hor : ((s.heard p).clock.foreignMark || (s.heard p).clock.join.isSome) = true :=
        Bool.or_eq_true_iff.2 (.inr hjoin)
      rw [hor]
    have hu : Agrees { s.heard p with clock := { (s.heard p).clock with foreignMark := true } } :=
      (agrees_of_sound hheard).steady {}
    obtain ⟨v, w, t, htaken, htried, hrest⟩ := hshunned _ hu rfl
    rw [hmarked, htaken, htried, if_pos hl]
    exact ⟨_, v, w, t, rfl, rfl, hrest⟩
  · have hm : s.station.clockMode = .running := hstation.resolve_left hl
    have hu : Agrees ((s.heard p).movedTo (instant % p.round)) := by
      rw [← passTo_movedTo]
      exact (agrees_of_sound hheard).steady (passTo_steady (position_of_running hheard.clock hm) _)
    have hjoin : s.clock.join = none := by
      by_contra hne
      exact hl (hs.clock.join.1 (Option.isSome_iff_ne_none.2 hne))
    have hmarked : (s.heard p).openReported h digest cold leaving current instant order =
        (((s.heard p).movedTo (instant % p.round)).rosterForeign h).takeOpen h leaving true := by
      rw [openReported_running (s := s.heard p) hp hm, State.openRunning, if_pos hforeign', passTo_movedTo, State.openForeign]
      have hor (c : Clock) (hc : c.join = none) : (c.foreignMark || c.join.isSome) = c.foreignMark := by
        rw [hc]
        exact Bool.or_false _
      rw [hor ((s.heard p).movedTo _).clock hjoin]
    obtain ⟨v, w, t, htaken, htried, hrest⟩ := hshunned _ hu rfl
    rw [hmarked, htaken, htried, if_neg hl]
    exact ⟨_, v, w, t, rfl, rfl, hrest⟩

/-! ## Out of step -/

/-- The distance that the test of R66 uses is one to an occurrence of the expected end. -/
theorem openOffset_occurs (p : Profile) (k instant : Nat) :
    ∃ j : Int, p.openOffset k instant = (p.settle + k * p.slotLength + 20 : Nat) + j * p.round - instant := by
  have hlength : (p.roundLength : Int) = p.round := rfl
  have hend : (p.openEnd k : Int) = (p.settle + k * p.slotLength + 20 : Nat) := rfl
  unfold Profile.openOffset
  dsimp only
  rw [hlength, hend]
  split
  · exact ⟨0, by ring⟩
  · split
    · exact ⟨-1, by ring⟩
    · exact ⟨1, by ring⟩

theorem not_onTime {k instant : Nat}
    (h : ∀ j : Int, (p.grace : Int) < |(p.settle + k * p.slotLength + 20 + j * p.round - instant : Int)|) :
    ¬ p.onTime k instant = true := by
  obtain ⟨j, hj⟩ := openOffset_occurs p k instant
  have hfar := h j
  simp only [Profile.onTime, decide_eq_true_eq, not_le]
  push_cast at hj
  rw [← hj, Int.abs_eq_natAbs] at hfar
  exact_mod_cast hfar

/-- Settles O32: the parts of an OPEN that is judged MISALIGNED, one after the other. -/
theorem openOutOfStepLeavesTheClock : Obligations.OpenOutOfStepLeavesTheClock := by
  intro s p h cold leaving current instant order hs hp hm ht hslot howner hfar
  have hheard : (s.heard p).Sound := heard_sound hs ht.1
  have hmoved : Agrees ((s.heard p).movedTo (instant % p.round)) := by
    rw [← passTo_movedTo]
    exact (agrees_of_sound hheard).steady (passTo_steady (position_of_running hheard.clock hm) _)
  have hmarked : Agrees { (s.heard p).movedTo (instant % p.round) with
      clock := { ((s.heard p).movedTo (instant % p.round)).clock with misalignedMark := true } } := hmoved.steady {}
  have hreported : (s.heard p).openReported h p.digest cold leaving current instant order =
      (((State.contest { (s.heard p).movedTo (instant % p.round) with
        clock := { ((s.heard p).movedTo (instant % p.round)).clock with misalignedMark := true } } p h.sender cold true).rosterSeen
          h leaving current).takeOpen h leaving false) := by
    rw [openReported_running (s := s.heard p) hp hm, State.openRunning, if_neg (foreignOpen_own hslot howner),
      if_neg (not_onTime hfar), passTo_movedTo]
    rfl
  have hjudged := contest_judged hmarked.lossReady p h.sender cold true
  have hlength := contest_globalLength hmarked.lossReady p h.sender cold true
  have hside := contest_side { (s.heard p).movedTo (instant % p.round) with
    clock := { ((s.heard p).movedTo (instant % p.round)).clock with misalignedMark := true } } p h.sender cold true
  have hcontested := hmarked.contest p h.sender cold true
  rw [exec_openReceived instant order hp ht, hreported]
  generalize State.contest { (s.heard p).movedTo (instant % p.round) with
    clock := { ((s.heard p).movedTo (instant % p.round)).clock with misalignedMark := true } } p h.sender cold true = v at *
  have hset : v.readCurrentSet current = s.readCurrentSet current := readCurrentSet_congr hlength current
  have hseen := hcontested.rosterSeen h leaving current
  have hstation : (v.rosterSeen h leaving current).station = s.station := by
    change v.station = _
    rw [hside]
    rfl
  have haccount : (v.rosterSeen h leaving current).account = s.account := by
    change v.account = _
    rw [hside]
    rfl
  refine ⟨_, v, v.rosterSeen h leaving current, (v.rosterSeen h leaving current).endAccount .nextOpen, _, rfl, rfl, hjudged,
    ?_, ?_, ?_⟩
  · rw [← hset]
    rfl
  · cases ha : s.account with
    | none => exact endAccount_none (haccount.trans ha) _
    | some a => exact endAccount_some hseen.lossReady (haccount.trans ha) _
  · have htested := (hseen.takeOpen h leaving false).lossReady.tested
    rw [takeOpen_known hseen, hstation] at htested ⊢
    exact htested

end Sys2Proof.Proofs

/-! The readbacks of the station's own frames (R55, R88, R90, R94, R95, R106, R108 to R112). -/

namespace Sys2Proof.Proofs

-- One proof at a time: every further thread of the elaborator counts against the memory limit.
set_option Elab.async false

open Sys2Proof Sys2Proof.Machine Sys2Proof.Laws

variable {s t u : State} {p : Profile} {f : Filling} {sent : Sending}

/-! ## The frame's end -/

theorem live_inSlot (h : s.inSlot f) : s.liveSlot.isSome = true := by
  rw [liveSlot_some h]
  rfl

theorem live_offSlot (h : s.offSlot) : ¬ s.liveSlot.isSome = true := by
  rw [liveSlot_none h]
  exact Bool.false_ne_true

/-- The slot goes on behind the readback of its OPEN. -/
theorem goOn_eq (s : State) : s.goOn = { s with
    filler := s.filler.map fun g => if g.step = .opened then { g with step := .control } else g } := by
  have hafter : Filling.afterOpen = fun g => if g.step = .opened then { g with step := .control } else g := by
    funext g
    unfold Filling.afterOpen
    cases hg : g.step <;> simp
  unfold State.goOn
  rw [hafter]

theorem frameLost_reports (s : State) (h : Header) (lost : LostFrame) :
    Reports s (s.frameLost h lost) [⟨s.ownSubject, h.round, .ownFrameLost h.slotIndex lost⟩] := appendEvent_reports s _

/-! ## OPEN -/

section
variable {digest : Half} {cold leaving : Bool} {current : WindowSet}

theorem exec_openReadback (hp : s.profile = some p) (ht : s.transmitter = some sent)
    (hb : sent.frame.body = .opn digest cold leaving current) (intact : Bool) :
    exec (.openReadback intact) s =
      if s.liveSlot.isSome then .next ((s.driven sent).openReadBack p sent.frame.header intact) else .next (s.driven sent) := by
  obtain ⟨⟨header, body⟩, start⟩ := sent
  dsimp only at hb
  subst hb
  change execOpenReadback intact s = _
  unfold execOpenReadback
  rw [ht, hp]
  dsimp only
  rw [endFrame_driven]

theorem openReadBack_takesPart (htakes : s.station.takesPart = true) (h : Header) (intact : Bool) :
    s.openReadBack p h intact = s.ownOpenReported p h intact := by
  unfold State.openReadBack
  rcases takesPart_iff.1 htakes with hs | hs <;> rw [hs]

theorem openReadBack_coldStart (hs : s.station = .coldStart) (h : Header) (intact : Bool) :
    s.openReadBack p h intact = s.coldOpenReported p intact := by
  unfold State.openReadBack
  rw [hs]

end

/-- Settles O42, by the outcome of the readback and the count of failures. -/
theorem ownOpenReadbackKeepsTheLine : Obligations.OwnOpenReadbackKeepsTheLine := by
  intro s p f sent digest cold leaving current hp ht hb
  refine ⟨fun hoff intact => ?_, fun hs htakes hslot => ?_⟩
  · rw [exec_openReadback hp ht hb, if_neg (live_offSlot hoff)]
  · have hexec (intact : Bool) : exec (.openReadback intact) s =
        .next ((s.driven sent).ownOpenReported p sent.frame.header intact) := by
      rw [exec_openReadback hp ht hb, if_pos (live_inSlot hslot), openReadBack_takesPart (s := s.driven sent) htakes]
    have hdriven : Agrees (s.driven sent) := (agrees_of_sound hs).steady (driven_steady hs.clock sent)
    have hcleared : Agrees { s.driven sent with openFailures := 0 } := hdriven.steady {}
    dsimp only
    refine ⟨?_, fun hfirst => ?_, fun hsecond => ?_⟩
    · have hended := hcleared.endAccount .nextOpen
      have htested := (hended.steady (goOn_steady _)).lossReady.tested
      have hreported : (s.driven sent).ownOpenReported p sent.frame.header true =
          (State.endAccount { s.driven sent with openFailures := 0 } .nextOpen).goOn.tryBegin := if_pos rfl
      rw [hexec, hreported]
      refine ⟨State.endAccount { s.driven sent with openFailures := 0 } .nextOpen, _, rfl, ?_, ?_⟩
      · cases ha : s.account with
        | none => exact endAccount_none (s := { s.driven sent with openFailures := 0 }) ha _
        | some a => exact endAccount_some hcleared.lossReady ha _
      · rw [← goOn_eq]
        exact htested
    · have hreported : (s.driven sent).ownOpenReported p sent.frame.header false =
          (State.frameLost { s.driven sent with openFailures := 1 } sent.frame.header .opn).goOn :=
        (if_neg Bool.false_ne_true).trans (if_pos hfirst)
      rw [hexec, hreported, goOn_eq]
      have hlost := frameLost_reports { s.driven sent with openFailures := 1 } sent.frame.header .opn
      exact ⟨_, rfl, (hlost.of_eq rfl rfl).from_eq rfl rfl, rfl⟩
    · have hreported : (s.driven sent).ownOpenReported p sent.frame.header false =
          (s.driven sent).comeOff p .standoff .openLost := (if_neg Bool.false_ne_true).trans (if_neg hsecond)
      rw [hexec, hreported]
      exact ⟨_, rfl, comeOff_off (s := s.driven sent) p .standoff .openLost hp (.inr (.inl rfl))⟩

/-- Settles O43, by the pending LEAVE and the outcome. -/
theorem coldOpenReadbackStartsTheLine : Obligations.ColdOpenReadbackStartsTheLine := by
  intro s p f sent digest cold leaving current hp hs hslot hopened ht hb
  have hexec (intact : Bool) : exec (.openReadback intact) s = .next ((s.driven sent).coldOpenReported p intact) := by
    rw [exec_openReadback hp ht hb, if_pos (live_inSlot hslot), openReadBack_coldStart (s := s.driven sent) hs]
  have hfiller : (s.driven sent).filler = some { f with count := max f.count (sent.start + 20) } := by
    rw [driven_filler sent hslot, hb]
    rfl
  have hclock := driven_clock (s := s) sent
  have hp' : (s.driven sent).profile = some p := hp
  have hidle : (s.driven sent).transmitter = none := rfl
  dsimp only
  refine ⟨fun hpending intact => ?_, fun hstays => ?_, fun hstays => ?_⟩
  · have hreported : (s.driven sent).coldOpenReported p intact = (s.driven sent).closeNow := if_pos hpending
    rw [hexec, hreported, State.closeNow, hp', hfiller]
    exact congrArg Host.Outcome.next (offerClose_sending _ hp')
  · have hnot : ¬ s.leavePending = true := by rw [hstays]; exact Bool.false_ne_true
    have hreported : (s.driven sent).coldOpenReported p true = (s.driven sent).coldStartIntact.goOn :=
      (if_neg hnot).trans (if_pos rfl)
    obtain ⟨hwindows, hreports, hframe⟩ := coldStartIntact_started (s.driven sent)
    rw [hexec, hreported, goOn_eq]
    generalize (s.driven sent).coldStartIntact = v at *
    refine ⟨_, rfl, fun w => ?_, ?_, ?_⟩
    · refine (hwindows w).trans ?_
      have hwindow : (s.driven sent).window w = s.window w := rfl
      rw [hwindow, WindowRecord.coldCurrent]
      by_cases hheld : (s.window w).holding = none
      · rw [if_pos hheld, if_neg fun hh => isHeld_iff.1 hh hheld]
      · rw [if_neg hheld, if_pos (isHeld_iff.2 hheld)]
    · have hstation : (s.driven sent).station = .coldStart := hs
      have hround : (s.driven sent).clock.round = s.clock.round := driven_clock_round sent
      rw [hstation, hround] at hreports
      exact (hreports.from_eq (u := s) rfl rfl).of_eq rfl rfl
    · have hkept : v.filler = (s.driven sent).filler := by rw [hframe]
      rw [hkept, hfiller, hframe, Option.map_some, if_pos hopened]
  · have hnot : ¬ s.leavePending = true := by rw [hstays]; exact Bool.false_ne_true
    have hreported : (s.driven sent).coldOpenReported p false = (s.driven sent).coldStartLost p :=
      (if_neg hnot).trans (if_neg Bool.false_ne_true)
    have hentered := enter_reports (s.driven sent) .standoff .coldOpenLost 0
    have hstation : (s.driven sent).station = .coldStart := hs
    have hround : (s.driven sent).clock.round = s.clock.round := driven_clock_round sent
    rw [hstation, hround] at hentered
    rw [hexec, hreported]
    refine ⟨_, rfl, (hentered.of_eq rfl rfl).from_eq rfl rfl, ?_⟩
    unfold State.coldStartLost
    rw [hclock]
    rfl

/-! ## UPD and NTC -/

section
variable {w : WindowNo} {first : BitVec 4} {block : BitVec 10} {words : List Word} {target : Byte} {level : BitVec 3} {tag : Half}

theorem exec_updReadback (ht : s.transmitter = some sent) (hb : sent.frame.body = .upd w first block words) (intact : Bool) :
    exec (.updReadback intact) s =
      if s.liveSlot.isSome then
        .next ((((s.driven sent).popOutbound.ownUpdReported sent.frame.header w first block words intact).completeFences).tryBegin)
      else .next (s.driven sent) := by
  obtain ⟨⟨header, body⟩, start⟩ := sent
  dsimp only at hb
  subst hb
  change execUpdReadback intact s = _
  unfold execUpdReadback
  rw [ht]
  dsimp only
  rw [endFrame_driven]

theorem exec_ntcReadback (ht : s.transmitter = some sent) (hb : sent.frame.body = .ntc target level tag) (intact : Bool) :
    exec (.ntcReadback intact) s =
      if s.liveSlot.isSome then
        .next ((if intact then (s.driven sent).popOutbound
          else (s.driven sent).popOutbound.frameLost sent.frame.header (.ntc target level tag)).completeFences)
      else .next (s.driven sent) := by
  obtain ⟨⟨header, body⟩, start⟩ := sent
  dsimp only at hb
  subst hb
  change execNtcReadback intact s = _
  unfold execNtcReadback
  rw [ht]
  dsimp only
  rw [endFrame_driven]

end

/-- Settles O44, by the kind of the frame and the outcome. -/
theorem outboundReadbackSettlesTheEntry : Obligations.OutboundReadbackSettlesTheEntry := by
  intro s sent hs ht
  have hpopped : Agrees (s.driven sent).popOutbound :=
    (agrees_of_sound hs).steady ((driven_steady hs.clock sent).trans (popOutbound_steady _))
  refine ⟨fun w first block words hb => ⟨fun hoff intact => ?_, fun f intact hslot => ?_⟩,
    fun target level tag hb => ⟨fun hoff intact => ?_, fun f intact hslot => ?_⟩⟩
  · rw [exec_updReadback ht hb, if_neg (live_offSlot hoff)]
  · have hsettled := ownUpdReported_agrees hpopped sent.frame.header w first block words intact
    have htested := (hsettled.steady (completeFences_steady _)).lossReady.tested
    rw [exec_updReadback ht hb, if_pos (live_inSlot hslot)]
    refine ⟨_, _, _, rfl, ?_, completeFences_done, htested⟩
    unfold State.ownUpdReported
    cases intact with
    | true =>
      rw [if_pos rfl, if_pos rfl, admitUpdate_eq]
      rfl
    | false =>
      rw [if_neg Bool.false_ne_true, if_neg Bool.false_ne_true, ← losses_one]
      have hlost := frameLost_reports (s.driven sent).popOutbound sent.frame.header (.upd w block first words.length)
      exact ⟨_, hlost.from_eq (u := s) rfl rfl, rfl, losses_taken _ (hpopped.steady (frameLost_steady _ _ _)).lossReady⟩
  · rw [exec_ntcReadback ht hb, if_neg (live_offSlot hoff)]
  · rw [exec_ntcReadback ht hb, if_pos (live_inSlot hslot)]
    refine ⟨_, _, rfl, ?_, ?_, completeFences_done⟩
    · split
      · exact (Reports.refl (s.driven sent).popOutbound).from_eq (u := s) rfl rfl
      · exact (frameLost_reports (s.driven sent).popOutbound _ _).from_eq (u := s) rfl rfl
    · split <;> rfl

/-! ## The frames of catch-up -/

theorem catchUpWait_of_profile (hp : s.profile = some p) : s.catchUpWait = p.catchUpWait := by
  rw [State.catchUpWait, hp]

/-- The wait timer of the attempt that the CREQ names starts again (R131). -/
theorem creqReported_eq (hp : s.profile = some p) (w : WindowNo) (attempt : BitVec 3) :
    s.creqReported w attempt = { s with catchUp := s.catchUp.map fun c =>
      match c.phase with
      | .requested _ => if c.window = w ∧ c.attempt = attempt.toNat then { c with phase := .requested p.catchUpWait } else c
      | .copying _ _ _ => c } := by
  have hkept {c : Option CatchUp} (hc : s.catchUp = c) : s = { s with catchUp := c } := by
    subst hc
    rfl
  unfold State.creqReported
  rw [catchUpWait_of_profile hp]
  cases hc : s.catchUp with
  | none => exact hkept hc
  | some c =>
    obtain ⟨cw, n, phase, cancelled⟩ := c
    cases phase with
    | requested wait =>
      dsimp only [Option.map_some]
      split
      · rfl
      · exact hkept hc
    | copying donor stall received => exact hkept hc

/-- The OFFERED record of the CBEG becomes SERVING, unless its own CBEG is still queued (R147). -/
theorem cbegReported_eq (s : State) (joiner : StationNo) (w : WindowNo) :
    s.cbegReported joiner w = { s with
    serving := s.serving.map fun r =>
      if r.joiner = joiner ∧ r.window = w ∧ r.phase = .offered ∧
          .cbeg r.joiner r.window (BitVec.ofNat 10 r.first) (BitVec.ofNat 10 r.last) ∉ s.control then
        { r with phase := .serving r.first }
      else r } := by
  unfold State.cbegReported
  congr 1
  refine List.map_congr_left fun r _ => ?_
  have htest : (decide (r.joiner = joiner) && decide (r.window = w) && !r.isServing && !s.control.contains r.cbeg) = true ↔
      r.joiner = joiner ∧ r.window = w ∧ r.phase = .offered ∧
        .cbeg r.joiner r.window (BitVec.ofNat 10 r.first) (BitVec.ofNat 10 r.last) ∉ s.control := by
    rw [← decide_phase_eq_offered]
    simp [ServingRecord.cbeg, and_assoc]
  by_cases hr : (decide (r.joiner = joiner) && decide (r.window = w) && !r.isServing && !s.control.contains r.cbeg) = true
  · rw [if_pos hr, if_pos (htest.1 hr)]
  · rw [if_neg hr, if_neg fun hc => hr (htest.2 hc)]

/-- Settles O45, by the kind of the frame. -/
theorem catchUpReadbackActsByKind : Obligations.CatchUpReadbackActsByKind := by
  intro s p sent intact hp ht
  refine ⟨fun w attempt first last hb => ?_, fun joiner w first last hb => ?_, fun hb => ?_⟩
  · obtain ⟨⟨header, body⟩, start⟩ := sent
    dsimp only at hb
    subst hb
    change execCreqReadback intact s = _
    unfold execCreqReadback
    rw [ht]
    dsimp only
    rw [endFrame_driven]
    exact congrArg Host.Outcome.next (creqReported_eq (s := s.driven _) hp w attempt)
  · obtain ⟨⟨header, body⟩, start⟩ := sent
    dsimp only at hb
    subst hb
    change execCbegReadback intact s = _
    unfold execCbegReadback
    rw [ht]
    dsimp only
    rw [endFrame_driven]
    exact congrArg Host.Outcome.next (cbegReported_eq (s.driven _) joiner w)
  · have hnothing : actsOnNothing sent.frame.body = true := by
      cases hbody : sent.frame.body with
      | cblk | cend | cabt | ccan => rfl
      | _ =>
        rw [hbody] at hb
        exact hb.elim
    change execOtherFrameReadback intact s = _
    unfold execOtherFrameReadback
    rw [ht]
    exact (if_pos hnothing).trans (congrArg _ (endFrame_driven sent))

/-! ## CLOSE -/

theorem exec_closeReadback {updates frames : Byte} {touched : WindowSet} (hp : s.profile = some p)
    (ht : s.transmitter = some sent) (hb : sent.frame.body = .close updates frames touched) (intact : Bool) :
    exec (.closeReadback intact) s =
      if s.liveSlot.isSome then .next ((s.driven sent).closeReadBack p) else .next (s.driven sent) := by
  obtain ⟨⟨header, body⟩, start⟩ := sent
  dsimp only at hb
  subst hb
  change execCloseReadback intact s = _
  unfold execCloseReadback
  rw [ht, hp]
  dsimp only
  rw [endFrame_driven]

/-- A slot that ends leaves the Slot Filler idle, or opens the own slot whose start was kept. -/
theorem endSlot_eq (hp : s.profile = some p) (hf : s.filler = some f) :
    s.endSlot = match f.deferred with
      | none => { s with filler := none }
      | some d =>
        if s.station.takesPart then State.openSlot { s with filler := none } p d.slot d.round (f.count - d.since)
        else { s with filler := none } := by
  unfold State.endSlot
  split
  next q g hq hg =>
    cases hp.symm.trans hq
    cases hf.symm.trans hg
    cases f.deferred <;> rfl
  next hno => exact absurd hf (hno p f hp)

/-- Settles O46, by what the CLOSE ends. -/
theorem closeReadbackEndsTheSlot : Obligations.CloseReadbackEndsTheSlot := by
  intro s p f sent updates frames touched intact hp ht hb
  refine ⟨fun hoff => ?_, fun hslot => ?_⟩
  · rw [exec_closeReadback hp ht hb, if_neg (live_offSlot hoff)]
  · have hfiller : (s.driven sent).filler = some { f with count := max f.count (sent.start + 20) } := by
      rw [driven_filler sent hslot, hb]
      rfl
    have hclock := driven_clock (s := s) sent
    have hp' : (s.driven sent).profile = some p := hp
    rw [exec_closeReadback hp ht hb, if_pos (live_inSlot hslot), State.closeReadBack, hfiller]
    dsimp only
    refine ⟨fun hs hleaving => ?_, fun hs hpending => ?_, fun hnot hnot' => ?_⟩
    · rw [if_pos ⟨hs, hleaving⟩]
      exact ⟨_, rfl, comeOff_off (s := { s.driven sent with filler := none }) p .configured .leaveDone hp (.inr (.inr rfl))⟩
    · have hno : ¬ ((s.driven sent).station = .leaving ∧ f.leaving = true) := fun hc => nomatch hs.symm.trans hc.1
      have hentered := enter_reports { s.driven sent with filler := none } .configured .leaveDone 0
      have hstation : State.station { s.driven sent with filler := none } = .coldStart := hs
      have hround : (State.clock { s.driven sent with filler := none }).round = s.clock.round := driven_clock_round sent
      rw [hstation, hround] at hentered
      rw [if_neg hno, if_pos ⟨hs, hpending⟩]
      refine ⟨_, rfl, (hentered.of_eq rfl rfl).from_eq rfl rfl, ?_⟩
      unfold State.coldLeaveDone
      have hleft : (State.clock { s.driven sent with filler := none }) =
          { s.clock with position := (s.driven sent).clock.position } := hclock
      rw [hleft]
      rfl
    · have hno : ¬ ((s.driven sent).station = .leaving ∧ f.leaving = true) := hnot
      have hno' : ¬ ((s.driven sent).station = .coldStart ∧ (s.driven sent).leavePending = true) := hnot'
      have hended := endSlot_eq hp' hfiller
      simp only [if_neg hno, if_neg hno', hended]
      cases f.deferred with
      | none => rfl
      | some d =>
        have hsame : (s.driven sent).station = s.station := rfl
        dsimp only
        rw [hsame]
        split
        · exact ⟨_, rfl, openSlot_opens (s := { s.driven sent with filler := none }) d.slot d.round _ hp⟩
        · rfl

end Sys2Proof.Proofs

/-! The own slots (R62, R103 to R110): their boundaries, the offers of their steps, and the copy read (R151 to R153). -/

namespace Sys2Proof.Proofs

-- One proof at a time: every further thread of the elaborator counts against the memory limit.
set_option Elab.async false

open Sys2Proof Sys2Proof.Machine Sys2Proof.Laws

variable {s t u : State} {p : Profile} {f g : Filling} {b : FrameBody} {k : Nat}

/-! ## What a frame's offer takes from the slot -/

/-- The frame's header and start are the slot's index, round and count; its step and its tallies are no part of it. -/
theorem sending_congr (s : State) (p : Profile) (b : FrameBody) (after : Filling) (hslot : g.slot = f.slot)
    (hround : g.round = f.round) (hcount : g.count = f.count) : s.sending p g b after = s.sending p f b after := by
  unfold State.sending
  rw [hslot, hround, hcount]

/-- The offer fills the Slot Filler anew. -/
theorem sending_setFilling (s : State) (p : Profile) (f g : Filling) (b : FrameBody) (after : Filling) :
    (s.setFilling g).sending p f b after = s.sending p f b after := by
  have hreceiver : (s.setFilling g).receiver = s.receiver := rfl
  unfold State.sending
  rw [hreceiver]
  split <;> rfl

/-- What sending a frame leaves of the catch-up units. -/
theorem sending_copySide (s : State) (p : Profile) (f : Filling) (b : FrameBody) (after : Filling) :
    (s.sending p f b after).control = s.control ∧ (s.sending p f b after).copyRead = s.copyRead ∧
      (s.sending p f b after).serving = s.serving ∧ (s.sending p f b after).turn = s.turn := by
  unfold State.sending
  dsimp only
  split <;> exact ⟨rfl, rfl, rfl, rfl⟩

theorem owns_iff : p.owns k = true ↔ p.allotment[k]? = some p.station := by
  unfold Profile.owns Profile.owner
  exact decide_eq_true_iff

/-! ## Slot starts -/

theorem exec_slotStart (hp : s.profile = some p) (hm : s.station.clockMode = .running) (hk : k < p.slots) :
    exec (.slotStart k) s = .next ((s.movedTo (p.settle + k * p.slotLength)).slotStarted p k) := by
  have hr : (s.running && decide (k < p.slots)) = true :=
    Bool.and_eq_true_iff.2 ⟨decide_eq_true hm, decide_eq_true hk⟩
  change execSlotStart k s = _
  rw [execSlotStart, hp]
  dsimp only
  rw [if_pos hr, passTo_movedTo]
  rfl

theorem ownSlotStart_opened (h : s.lastOpened = some (s.clock.round, k)) : s.ownSlotStart p k = s := by
  unfold State.ownSlotStart
  split
  · rw [if_pos h]
  · rw [if_pos h]
  · rw [if_pos h]
  all_goals rfl

theorem ownSlotStart_idle (hm : s.station.clockMode = .running) (h : s.lastOpened ≠ some (s.clock.round, k))
    (hf : s.filler = none) : s.ownSlotStart p k = s.openSlot p k s.clock.round 0 := by
  unfold State.ownSlotStart
  rcases running_iff.1 hm with hs | hs | hs <;> rw [hs] <;> dsimp only <;> rw [if_neg h, hf]

theorem ownSlotStart_filling (hm : s.station.clockMode = .running) (h : s.lastOpened ≠ some (s.clock.round, k))
    (hf : s.filler = some f) : s.ownSlotStart p k =
      if s.station = .leaving ∧ f.leaving = true then s
      else { s with
        filler := some { f with deferred := some { slot := k, round := s.clock.round, since := f.count } } } := by
  unfold State.ownSlotStart
  split
  case h_1 hs | h_2 hs =>
    have hno : ¬ (s.station = .leaving ∧ f.leaving = true) := fun hc => nomatch hs.symm.trans hc.1
    rw [if_neg h, hf, if_neg hno]
    rfl
  case h_3 hs =>
    rw [if_neg h, hf]
    dsimp only
    by_cases hl : f.leaving = true
    · rw [if_pos hl, if_pos ⟨hs, hl⟩]
    · rw [if_neg hl, if_neg fun hc => hl hc.2]
      rfl
  all_goals
    next hs =>
      rw [hs] at hm
      cases hm

/-! ## Slot ends -/

theorem exec_slotEnd (hp : s.profile = some p) (hm : s.station.clockMode = .running) (hk : k < p.slots) :
    exec (.slotEnd k) s = .next ((s.movedTo (p.settle + (k + 1) * p.slotLength)).slotEnded p k) := by
  have hr : (s.running && decide (k < p.slots)) = true :=
    Bool.and_eq_true_iff.2 ⟨decide_eq_true hm, decide_eq_true hk⟩
  have hat : p.slotStart k + p.slotLength = p.settle + (k + 1) * p.slotLength := by
    unfold Profile.slotStart
    ring
  change execSlotEnd k s = _
  rw [execSlotEnd, hp]
  dsimp only
  rw [if_pos hr, passTo_movedTo, hat]

/-- The slot end of an own slot in progress leaves nothing but the CLOSE. -/
theorem slotEnded_filling (hp : s.profile = some p) (howns : p.owns k = true) (hf : s.filler = some f) :
    s.slotEnded p k =
      if f.step = .closing ∨ f.step = .abandoned then { s with copyRead := none }
      else if s.transmitter = none then
        State.sending { s with copyRead := none } p f (closing f) { f with step := .closing }
      else { s with copyRead := none, filler := some { f with step := .close } } := by
  have hkept : s.setFilling f = s := by
    unfold State.setFilling
    rw [← hf]
  have hrestrict : f.restrict = if f.step = .closing ∨ f.step = .abandoned then f else { f with step := .close } := by
    unfold Filling.restrict
    split <;> simp_all
  have hended : s.slotEnded p k =
      if s.transmitter = none ∧ f.restrict.step = .close then
        State.offerClose { s.setFilling f.restrict with copyRead := none } p f.restrict
      else { s.setFilling f.restrict with copyRead := none } := by
    unfold State.slotEnded
    rw [if_pos howns, hf]
  rw [hended, hrestrict]
  by_cases hover : f.step = .closing ∨ f.step = .abandoned
  · have hno : ¬ (s.transmitter = none ∧ f.step = .close) := fun hc => by
      rcases hover with ho | ho <;> rw [ho] at hc <;> exact nomatch hc.2
    rw [if_pos hover, if_pos hover, if_neg hno, hkept]
  · rw [if_neg hover, if_neg hover]
    by_cases hidle : s.transmitter = none
    · rw [if_pos ⟨hidle, rfl⟩, if_pos hidle, offerClose_sending (s := { s.setFilling { f with step := .close } with copyRead := none })
        { f with step := .close } hp]
      exact (sending_congr _ p _ _ rfl rfl rfl).trans (sending_setFilling { s with copyRead := none } p f _ _ _)
    · rw [if_neg fun hc => hidle hc.1, if_neg hidle]
      rfl

/-- Settles O47: the two boundaries, by the slot's owner and the Slot Filler. -/
theorem slotBoundariesOpenAndCloseOwnSlots : Obligations.SlotBoundariesOpenAndCloseOwnSlots := by
  intro s p k hp hm hk
  refine ⟨⟨fun hnot => ?_, fun hown hfresh => ⟨fun hidle => ?_, fun f hf => ?_⟩⟩, fun hnot => ?_, fun f hown hf => ?_⟩
  · rw [exec_slotStart hp hm hk, State.slotStarted]
    rcases hnot with hnot | hlast
    · rw [if_neg fun hc => hnot (owns_iff.1 hc)]
      rfl
    · have hopened := ownSlotStart_opened (s := (s.movedTo (p.settle + k * p.slotLength)).armAccount k) (p := p) hlast
      rw [hopened]
      split <;> rfl
  · have hopens := openSlot_opens (s := (s.movedTo (p.settle + k * p.slotLength)).armAccount k) k s.clock.round 0 hp
    have hfiller : ((s.movedTo (p.settle + k * p.slotLength)).armAccount k).filler = none := by
      change s.filler.map _ = none
      rw [hidle]
      rfl
    rw [exec_slotStart hp hm hk, State.slotStarted, if_pos (owns_iff.2 hown),
      ownSlotStart_idle (s := (s.movedTo (p.settle + k * p.slotLength)).armAccount k) hm hfresh hfiller]
    exact ⟨_, rfl, hopens⟩
  · rw [exec_slotStart hp hm hk, State.slotStarted, if_pos (owns_iff.2 hown)]
    exact congrArg Host.Outcome.next
      (ownSlotStart_filling (s := (s.movedTo (p.settle + k * p.slotLength)).armAccount k) hm hfresh hf)
  · rw [exec_slotEnd hp hm hk, State.slotEnded]
    rcases hnot with hnot | hidle
    · rw [if_neg fun hc => hnot (owns_iff.1 hc)]
    · have hfiller : (s.movedTo (p.settle + (k + 1) * p.slotLength)).filler = none := by
        change s.filler.map _ = none
        rw [hidle]
        rfl
      rw [hfiller]
      split <;> rfl
  · rw [exec_slotEnd hp hm hk]
    exact congrArg Host.Outcome.next (slotEnded_filling hp (owns_iff.2 hown) hf)

/-! ## The offers of the steps -/

theorem room_iff {n k : Nat} : p.room f n k = true ↔ roomFor p f n k := decide_eq_true_iff

theorem copyReserve_eq (s : State) (p : Profile) : s.copyReserve p = s.reserve p := by
  have hremaining : ServingRecord.remaining =
      fun r => match r.phase with | .offered => 0 | .serving next => r.last + 1 - next := by
    funext r
    unfold ServingRecord.remaining
    cases r.phase <;> rfl
  unfold State.copyReserve State.blocksToSend State.reserve
  exact congrArg (fun g : ServingRecord → Nat => min p.copyShare (s.serving.map g).sum) hremaining

theorem tally_control (hb : isControl b = true) : f.tally b = { f with frames := f.frames + 1 } := by
  cases b with
  | creq | cbeg | cend | ccan | cabt => rfl
  | _ => cases hb

theorem ownUpdateWaits_iff :
    s.ownUpdateWaits = true ↔ ∃ w block first words, FrameClaim.update none w block first words ∈ s.frameClaims := by
  unfold State.ownUpdateWaits
  rw [List.any_eq_true]
  constructor
  · rintro ⟨c, hc, hown⟩
    unfold FrameClaim.isOwnUpdate at hown
    split at hown
    next w block first words => exact ⟨w, block, first, words, hc⟩
    all_goals cases hown
  · rintro ⟨w, block, first, words, hc⟩
    exact ⟨_, hc, rfl⟩

/-- The outbound step is made: the slot stands there, or the control step has stopped (R106, R107). -/
def OutboundStep (s : State) (p : Profile) (f : Filling) : Prop :=
  f.step = .outbound ∨ (f.step = .control ∧ ∀ b, s.control.head? = some b → ¬ roomFor p f (12 + bodyLength b) 0)

/-- The copy step is made: the slot stands there, or the outbound step has stopped (R107, R109). -/
def CopyStep (s : State) (p : Profile) (f : Filling) : Prop :=
  f.step = .copy ∨ (OutboundStep s p f ∧ ∀ e, s.outbound.head? = some e → match e with
    | .update _ _ _ words _ => ¬ roomFor p f (16 + 4 * words.length) (s.reserve p)
    | .notice _ _ _ => ¬ roomFor p f 16 (s.reserve p)
    | .fence _ => True)

theorem offerNext_outbound (h : OutboundStep s p f) : s.offerNext p f = s.offerOutbound p f := by
  unfold State.offerNext
  rcases h with h | ⟨h, hstopped⟩
  · rw [h]
  · rw [h]
    dsimp only
    unfold State.offerControl
    cases hc : s.control with
    | nil => rfl
    | cons b rest => exact if_neg fun hr => hstopped b (by rw [hc]; rfl) (room_iff.1 hr)

theorem offerNext_copy (h : CopyStep s p f) : s.offerNext p f = s.offerCopy p f := by
  rcases h with h | ⟨h, hstopped⟩
  · unfold State.offerNext
    rw [h]
  · rw [offerNext_outbound h]
    unfold State.offerOutbound
    cases ho : s.outbound with
    | nil => rfl
    | cons e rest =>
      have hhead := hstopped e (by rw [ho]; rfl)
      cases e with
      | update w block first words isSealed =>
        refine if_neg fun hr => hhead ?_
        rw [copyReserve_eq] at hr
        exact room_iff.1 hr
      | notice target level tag =>
        refine if_neg fun hr => hhead ?_
        rw [copyReserve_eq] at hr
        exact room_iff.1 hr
      | fence tag => rfl

theorem exec_slotFrameOffer (hp : s.profile = some p) (hf : s.filler = some f) (hidle : s.transmitter = none)
    (hread : s.copyRead = none) : exec .slotFrameOffer s = .next (s.offerNext p f) := by
  have hno : ¬ (s.transmitter.isSome || s.copyRead.isSome) = true := by
    rw [hidle, hread]
    exact Bool.false_ne_true
  change execSlotFrameOffer s = _
  rw [execSlotFrameOffer, hp, hf]
  exact if_neg hno

theorem offerOpen_opens (hp : s.profile = some p) (hidle : s.transmitter = none) :
    s.offerOpen p f = s.sending p f (s.openBody p f) { f with step := .opened } := by
  have hno : ¬ s.transmitter.isSome = true := by rw [hidle]; exact Bool.false_ne_true
  unfold State.offerOpen
  rw [if_neg hno]
  exact takeFrame_sending _ _ _ hp

/-- A slot in these steps offers nothing more. -/
theorem exec_slotFrameOffer_none (hp : s.profile = some p) (hf : s.filler = some f)
    (h : s.transmitter ≠ none ∨ s.copyRead ≠ none ∨ f.step = .opened ∨ f.step = .closing ∨ f.step = .abandoned) :
    exec .slotFrameOffer s = .next s := by
  by_cases hidle : s.transmitter = none ∧ s.copyRead = none
  · obtain ⟨hidle, hread⟩ := hidle
    have hstep : f.step = .opened ∨ f.step = .closing ∨ f.step = .abandoned :=
      (h.resolve_left (not_not_intro hidle)).resolve_left (not_not_intro hread)
    rw [exec_slotFrameOffer hp hf hidle hread, State.offerNext]
    rcases hstep with hstep | hstep | hstep <;> rw [hstep]
  · have hbusy : (s.transmitter.isSome || s.copyRead.isSome) = true := by
      rw [Bool.or_eq_true, Option.isSome_iff_ne_none, Option.isSome_iff_ne_none, ← not_and_or]
      exact hidle
    change execSlotFrameOffer s = _
    rw [execSlotFrameOffer, hp, hf]
    exact if_pos hbusy

/-- Settles O48, by the step that the slot has come to. -/
theorem slotFrameOfferFollowsTheSteps : Obligations.SlotFrameOfferFollowsTheSteps := by
  intro s p f order hserving hlimits hp hf horder
  have hchosen := chooseServing_order hserving.pairs horder
  dsimp only
  refine ⟨exec_slotFrameOffer_none hp hf, fun hidle hread => ?_⟩
  rw [exec_slotFrameOffer hp hf hidle hread]
  refine ⟨fun hstep => ?_, fun b rest hstep hcontrol hroom => ?_, fun w block first words isSealed rest hstep hout hroom => ?_,
    fun target level tag rest hstep hout hroom => ?_, fun r hstep hcopies hroom hfound => ?_, fun hstep => ?_⟩
  · refine ⟨s.openBody p f, openBody_opening s p f, ?_⟩
    rw [State.offerNext, hstep]
    exact congrArg Host.Outcome.next (offerOpen_opens hp hidle)
  · have hb : isControl b = true := hlimits.controlFrames b (by rw [hcontrol]; exact List.mem_cons_self)
    have hoffer : s.offerNext p f = State.sendFrame { s with control := rest } p { f with step := .control } b := by
      rw [State.offerNext, hstep]
      dsimp only
      rw [State.offerControl, hcontrol]
      exact if_pos (room_iff.2 hroom)
    have hkept : ({ f with step := .control } : Filling) = f := by
      rw [← hstep]
    rw [hoffer, hkept, sendFrame_sending (s := { s with control := rest }) f b hp, tally_control hb]
  · have hoffer : s.offerNext p f = State.sendFrame { s with outbound := .update w block first words true :: rest } p
        { f with step := .outbound } (.upd w first block words) := by
      rw [offerNext_outbound hstep, State.offerOutbound, hout]
      exact if_pos (by rw [copyReserve_eq]; exact room_iff.2 hroom)
    rw [hoffer, sendFrame_sending (s := { s with outbound := .update w block first words true :: rest }) _ _ hp]
    exact congrArg Host.Outcome.next (sending_congr _ p _ _ rfl rfl rfl)
  · have hoffer : s.offerNext p f = s.sendFrame p { f with step := .outbound } (.ntc target level tag) := by
      rw [offerNext_outbound hstep, State.offerOutbound, hout]
      exact if_pos (by rw [copyReserve_eq]; exact room_iff.2 hroom)
    rw [hoffer, sendFrame_sending _ _ hp]
    exact congrArg Host.Outcome.next (sending_congr _ p _ _ rfl rfl rfl)
  · rw [hfound] at hchosen
    have hoffer : s.offerNext p f = if s.ownUpdateWaits then s.setFilling { f with step := .copy }
        else { s.setFilling { f with step := .copy } with copyRead := some r.pair } := by
      rw [offerNext_copy hstep, State.offerCopy, if_pos ⟨hcopies, room_iff.2 hroom⟩, hchosen]
    rw [hoffer]
    refine ⟨fun hnone => ?_, fun w block first words hwaits => ?_⟩
    · rw [if_neg fun hw => ?_]
      · rfl
      · obtain ⟨w, block, first, words, hc⟩ := ownUpdateWaits_iff.1 hw
        exact hnone w block first words hc
    · rw [if_pos (ownUpdateWaits_iff.2 ⟨w, block, first, words, hwaits⟩)]
      rfl
  · have hoffer : s.offerNext p f = s.offerClose p f := by
      rcases hstep with hstep | ⟨hstep, hstops⟩
      · rw [State.offerNext, hstep]
      · rw [offerNext_copy hstep, State.offerCopy]
        by_cases hcan : f.copies < p.copyShare ∧ p.room f 80 0 = true
        · have hall : ∀ r ∈ order, r.phase = .offered :=
            (hstops.resolve_left (Nat.not_le.2 hcan.1)).resolve_left (not_not_intro (room_iff.1 hcan.2))
          have hnone : s.chooseServing = none := by
            rw [hchosen, List.find?_eq_none]
            intro r hr
            simp [hall r hr]
          rw [if_pos hcan, hnone]
        · rw [if_neg hcan]
    rw [hoffer, offerClose_sending f hp]

/-! ## The copy read -/

theorem readWords_length (m : Memory) : ∀ (n a : Nat), (m.readWords n a).length = n
  | 0, _ => rfl
  | n + 1, a => congrArg (· + 1) (readWords_length m n (a + 4))

theorem readWords_getD (m : Memory) : ∀ (n a i : Nat), i < n → (m.readWords n a).getD i 0 = m.readWord (a + i * 4)
  | 0, _, _, h => absurd h (Nat.not_lt_zero _)
  | n + 1, a, 0, _ => by simp [Memory.readWords]
  | n + 1, a, i + 1, h => by
    have hrest := readWords_getD m n (a + 4) i (Nat.lt_of_succ_lt_succ h)
    have hat : a + 4 + i * 4 = a + (i + 1) * 4 := by ring
    rw [hat] at hrest
    exact hrest

section
variable {before after : List ServingRecord} {r : ServingRecord} {next block : Nat}

theorem pairs_beside (hn : (s.serving.map ServingRecord.pair).Nodup) (hs : s.serving = before ++ r :: after) :
    (∀ q ∈ before, q.pair ≠ r.pair) ∧ ∀ q ∈ after, q.pair ≠ r.pair := by
  rw [hs] at hn
  simp only [List.map_append, List.map_cons, List.nodup_append, List.nodup_cons] at hn
  obtain ⟨-, ⟨hnot, -⟩, hdisjoint⟩ := hn
  exact ⟨fun q hq => hdisjoint _ (List.mem_map_of_mem hq) _ List.mem_cons_self,
    fun q hq heq => hnot (heq ▸ List.mem_map_of_mem hq)⟩

theorem servingOf_split (hn : (s.serving.map ServingRecord.pair).Nodup) (hs : s.serving = before ++ r :: after) :
    s.servingOf r.joiner r.window = some r := by
  have hbefore := (pairs_beside hn hs).1
  have hskip : before.find? (fun q => decide (q.joiner = r.joiner) && decide (q.window = r.window)) = none := by
    refine List.find?_eq_none.2 fun q hq hm => hbefore q hq ?_
    rw [Bool.and_eq_true, decide_eq_true_eq, decide_eq_true_eq] at hm
    exact Prod.ext hm.1 hm.2
  rw [State.servingOf, hs, List.find?_append, hskip, Option.none_or]
  exact List.find?_cons_of_pos (by simp)

/-- The record whose block has been sent moves on, or goes with its CEND queued (R151 to R153). -/
theorem advanceServing_eq (hn : (s.serving.map ServingRecord.pair).Nodup) (hs : s.serving = before ++ r :: after)
    (hread : s.copyRead = none) (next : Nat) : s.advanceServing r next =
      if next < r.last then
        { s with
          turn := some (r.joiner, r.window)
          serving := before ++ { r with phase := .serving (next + 1) } :: after }
      else
        { s with
          turn := before.getLast?.map fun q => (q.joiner, q.window)
          serving := before ++ after
          control := queued s.control (.cend r.joiner r.window (BitVec.ofNat 16 (r.last - r.first + 1))) } := by
  obtain ⟨hbefore, hafter⟩ := pairs_beside hn hs
  unfold State.advanceServing
  dsimp only
  split
  · have hkeep (l : List ServingRecord) (hl : ∀ q ∈ l, q.pair ≠ r.pair) :
        (l.map fun q => if q.pair = r.pair then { q with phase := ServePhase.serving (next + 1) } else q) = l :=
      (List.map_congr_left fun q hq => if_neg (hl q hq)).trans (List.map_id l)
    have hmap : (s.serving.map fun q => if q.pair = r.pair then { q with phase := ServePhase.serving (next + 1) } else q) =
        before ++ { r with phase := .serving (next + 1) } :: after := by
      rw [hs, List.map_append, List.map_cons, if_pos rfl, hkeep before hbefore, hkeep after hafter]
    rw [hmap]
    rfl
  · have hfilter : (s.serving.filter fun q => q.pair != r.pair) = before ++ after := by
      rw [hs, List.filter_append, List.filter_cons_of_neg (by simp), List.filter_eq_self.2 fun q hq => by simpa using hbefore q hq,
        List.filter_eq_self.2 fun q hq => by simpa using hafter q hq]
    have hturn : recordBefore r.pair none s.serving = before.getLast?.map ServingRecord.pair := by
      rw [hs, recordBefore_append _ r after rfl before none hbefore, Option.or_none]
    have hremoved (u : State) (h1 : u.serving = s.serving) (h2 : u.turn = some r.pair) (h3 : u.copyRead = none) :
        u.removeServing r.pair =
          { u with serving := before ++ after, turn := before.getLast?.map ServingRecord.pair } := by
      unfold State.removeServing
      rw [h1, h2, h3, if_pos rfl, hturn, hfilter, if_neg nofun, if_neg nofun]
    exact hremoved _ rfl rfl hread

theorem copySource_split (hn : (s.serving.map ServingRecord.pair).Nodup) (hs : s.serving = before ++ r :: after)
    (hphase : r.phase = .serving next) (hblock : (s.window r.window).storeBlock next = some block) :
    s.copySource (r.joiner, r.window) = some (r, next, block) := by
  have hnext : r.nextBlock = some next := by rw [ServingRecord.nextBlock, hphase]
  rw [State.copySource, servingOf_split hn hs]
  dsimp only
  rw [hnext]
  dsimp only
  rw [hblock]
  rfl

theorem exec_copyReadGranted (hp : s.profile = some p) (hf : s.filler = some f) (hfree : s.frameClaims = [])
    (hread : s.copyRead = some (r.joiner, r.window)) (hsource : s.copySource (r.joiner, r.window) = some (r, next, block))
    (hlt : block < 8192) :
    exec .copyReadGranted s = .next (s.offerBlock p f r next (s.storeBlockWords block)) := by
  have hhas : storeHas block = true := decide_eq_true hlt
  have hempty : s.frameClaims.isEmpty = true := by rw [hfree]; rfl
  change execCopyReadGranted s = _
  rw [execCopyReadGranted, hp, hf, hread]
  dsimp only
  rw [if_pos hempty, hsource]
  exact if_pos hhas

/-- Settles O49, by the room that the slot has left. -/
theorem copyReadSendsTheNextBlock : Obligations.CopyReadSendsTheNextBlock := by
  intro s p f before after r next block hagrees hp hf hs hread hphase hblock hlt
  have hsource := copySource_split hagrees.pairs hs hphase hblock
  refine ⟨fun hclaims => ?_, fun hfree hidle hroom => ?_, fun hfree hno => ?_⟩
  · have hnonempty : ¬ s.frameClaims.isEmpty = true := fun hc => hclaims (List.isEmpty_iff.1 hc)
    change execCopyReadGranted s = _
    rw [execCopyReadGranted, hp, hf, hread]
    exact if_neg hnonempty
  · have hsent : State.sendFrame { s with copyRead := none } p { f with copies := f.copies + 1 }
        (.cblk r.joiner r.window (BitVec.ofNat 10 next) (s.storeBlockWords block)) =
        State.sending { s with copyRead := none } p f (.cblk r.joiner r.window (BitVec.ofNat 10 next) (s.storeBlockWords block))
          { f with copies := f.copies + 1, frames := f.frames + 1 } :=
      (sendFrame_sending (s := { s with copyRead := none }) _ _ hp).trans (sending_congr _ p _ _ rfl rfl rfl)
    have hoffer : s.offerBlock p f r next (s.storeBlockWords block) = (State.sending { s with copyRead := none } p f
        (.cblk r.joiner r.window (BitVec.ofNat 10 next) (s.storeBlockWords block))
        { f with copies := f.copies + 1, frames := f.frames + 1 }).advanceServing r next := by
      rw [State.offerBlock, if_pos ⟨room_iff.2 hroom, hidle⟩, hsent]
    obtain ⟨hcontrol, hcopy, hserving, -⟩ := sending_copySide { s with copyRead := none } p f
      (.cblk r.joiner r.window (BitVec.ofNat 10 next) (s.storeBlockWords block))
      { f with copies := f.copies + 1, frames := f.frames + 1 }
    rw [exec_copyReadGranted hp hf hfree hread hsource hlt, hoffer]
    refine ⟨_, s.storeBlockWords block, rfl, readWords_length _ _ _, fun i hi => readWords_getD _ _ _ _ hi, ?_⟩
    generalize State.sending { s with copyRead := none } p f _ _ = u at *
    have hpairs : (u.serving.map ServingRecord.pair).Nodup := by rw [hserving]; exact hagrees.pairs
    rw [advanceServing_eq hpairs (hserving.trans hs) hcopy next, hcontrol]
  · have hstays : ¬ (p.room f 80 0 = true ∧ s.transmitter = none) := fun hc => by
      rcases hno with hno | hno
      · exact hno hc.2
      · exact hno (room_iff.1 hc.1)
    have hstopped : f.stopCopy = if f.step = .copy then { f with step := .close } else f := by
      unfold Filling.stopCopy
      cases hstep : f.step <;> simp
    rw [exec_copyReadGranted hp hf hfree hread hsource hlt, State.offerBlock, if_neg hstays, State.releaseCopyRead, hf,
      Option.map_some, hstopped]

end

end Sys2Proof.Proofs

/-! The round end in each block and the timers (R60 to R64, R70, R75, R86, R87, R91, R92, R120, R132, R148). -/

namespace Sys2Proof.Proofs

-- One proof at a time: every further thread of the elaborator counts against the memory limit.
set_option Elab.async false

open Sys2Proof Sys2Proof.Machine Sys2Proof.Laws

variable {s t u : State} {p : Profile} {k : Nat}

/-! ## The round end -/

/-- The running timer of the catch-up record is reduced by one, while ACTIVE (R132). -/
theorem reduceTimers_eq (s : State) : s.reduceTimers = s.timersReduced := by
  have hkept {c : Option CatchUp} (hc : s.catchUp = c) : s = { s with catchUp := c } := by
    subst hc
    rfl
  unfold State.reduceTimers State.timersReduced
  by_cases ha : s.station = .active
  · rw [if_pos ha]
    cases hc : s.catchUp with
    | none => exact hkept hc
    | some c =>
      obtain ⟨w, n, phase, cancelled⟩ := c
      dsimp only
      rw [if_pos ha]
      cases phase <;> rfl
  · rw [if_neg ha]
    split
    · rfl
    · exact if_neg ha

theorem exec_roundEnd (hp : s.profile = some p) (hm : s.station.clockMode = .running) :
    exec .roundEnd s = .next (s.movedTo p.round).endRound.reduceTimers := by
  have hr : s.running = true := decide_eq_true hm
  change execRoundEnd s = _
  rw [execRoundEnd, hp]
  dsimp only
  rw [if_pos hr, passTo_movedTo]
  rfl

/-- Out of ACTIVE there is no timer to reduce. -/
theorem timersReduced_sound (hs : s.station ≠ .active → s.catchUp = none) : s.timersReduced = { s with
    catchUp := s.catchUp.map fun c => { c with
      phase := match c.phase with
        | .requested wait => .requested (wait - 1)
        | .copying donor stall received => .copying donor (stall - 1) received } } := by
  refine congrArg (fun c => ({ s with catchUp := c } : State)) ?_
  by_cases ha : s.station = .active
  · exact if_pos ha
  · refine (if_neg ha).trans ?_
    rw [hs ha]
    rfl

theorem lapsed_eq (r : ServingRecord) (ended : Half) :
    r.lapsed ended = decide (r.phase = .offered ∧ 3 ≤ (ended - r.beginRound).toNat) := by
  rw [Bool.decide_and, decide_phase_eq_offered]
  rfl

/-- A cold mark of 1 goes, and a higher one is one less (R33). -/
theorem reduceMark_eq {r : WindowRecord} (hmark : ∀ n, r.coldMark = some n → 1 ≤ n) :
    r.reduceMark = { r with coldMark := match r.coldMark with
      | none => none
      | some n => if n = 1 then none else some (n - 1) } := by
  obtain ⟨length, holding, currency, attempts, written, watch, mark⟩ := r
  unfold WindowRecord.reduceMark
  cases mark with
  | none => rfl
  | some n =>
    have hone : n ≤ 1 ↔ n = 1 := ⟨fun h => Nat.le_antisymm h (hmark n rfl), fun h => h.le⟩
    simp only [hone]

/-- Settles O50, row by row. -/
theorem roundEndActsInEachBlock : Obligations.RoundEndActsInEachBlock := by
  intro s p hs hp
  refine ⟨fun hm => ?_, fun ha => ⟨_, rfl, fun w => ?_, ?_⟩, fun ha => ⟨_, rfl, ?_, lapseOffers_side s⟩, fun ha => ⟨?_, ?_⟩⟩
  · have hreduced := timersReduced_sound (s := (s.movedTo p.round).endRound) hs.quiet.catchUp
    rw [exec_roundEnd hp hm, reduceTimers_eq, hreduced]
    rfl
  · have hmark : ∀ n, (s.window w).coldMark = some n → 1 ≤ n := fun n hn => (hs.windows.marks w n hn).2.2.1
    exact (reduceColdMarks_window w).trans ((if_pos ha).trans (reduceMark_eq hmark))
  · rw [State.reduceColdMarks, if_pos ha]
    rfl
  · have hended := lapseOffers_ended ha hs.serving.pairs
    have htest : (fun r : ServingRecord => r.lapsed s.clock.endedRound) =
        fun r => decide (r.phase = .offered ∧ 3 ≤ (s.clock.endedRound - r.beginRound).toNat) :=
      funext fun r => lapsed_eq r _
    rw [htest] at hended
    exact hended
  · exact congrArg Host.Outcome.next (if_neg ha)
  · exact congrArg Host.Outcome.next (if_neg ha)

/-! ## The misaligned rounds -/

/-- Settles O51, by the marks of the round. -/
theorem syncLossTakesTheStationOffTheLine : Obligations.SyncLossTakesTheStationOffTheLine := by
  intro s p hp
  have htaken : s.takeSyncLoss = if (s.clock.syncLoss && s.station.takesPart) = true then s.comeOff p .listening .syncLoss
      else s := by
    rw [State.takeSyncLoss, hp]
  refine ⟨fun htakes => ?_, fun htakes hloss => ⟨_, rfl, ?_⟩, fun htakes hnone => ?_, fun ho => ⟨?_, ?_⟩⟩
  · have hmarks : (s.clock.misalignedMark && !s.clock.onTimeMark) = true ↔
        s.clock.misalignedMark = true ∧ s.clock.onTimeMark = false := by simp
    have hloss (n : Nat) : (s.clock.syncLoss || decide (2 ≤ n)) = if 2 ≤ n then true else s.clock.syncLoss := by
      by_cases hn : 2 ≤ n <;> simp [hn]
    change Host.Outcome.next s.testRound = _
    rw [State.testRound, if_pos htakes, Clock.testRound]
    simp only [hmarks, hloss]
  · have hboth : (s.clock.syncLoss && s.station.takesPart) = true := by rw [hloss, htakes]; rfl
    rw [htaken, if_pos hboth]
    exact comeOff_off p .listening .syncLoss hp (.inl rfl)
  · have hno : ¬ (s.clock.syncLoss && s.station.takesPart) = true := by rw [hnone]; exact Bool.false_ne_true
    exact congrArg Host.Outcome.next (htaken.trans (if_neg hno))
  · exact congrArg Host.Outcome.next (if_neg (by rw [ho]; exact Bool.false_ne_true))
  · have hno : ¬ (s.clock.syncLoss && s.station.takesPart) = true := by rw [ho, Bool.and_false]; exact Bool.false_ne_true
    exact congrArg Host.Outcome.next (htaken.trans (if_neg hno))

/-! ## The silent peers -/

theorem silenceLimit_of_profile (hp : s.profile = some p) : s.silenceLimit = p.silenceLimit := by
  rw [State.silenceLimit, hp]

theorem isSilent_iff {r : RosterRecord} {limit : Nat} : r.isSilent limit = true ↔ r.state = .present ∧ r.silent = limit := by
  simp [RosterRecord.isSilent]

/-- Settles O52, by the record of the station. -/
theorem silentPeersDepart : Obligations.SilentPeersDepart := by
  intro s p station hs hp
  have hlimit := silenceLimit_of_profile hp
  refine ⟨fun htakes => ?_, fun ho => ?_, fun htakes r hr hpresent hsilent => ?_, fun hno => ?_⟩
  · change Host.Outcome.next s.examineRoster = _
    rw [State.examineRoster, if_pos htakes, hlimit]
    rfl
  · exact congrArg Host.Outcome.next (if_neg (by rw [ho]; exact Bool.false_ne_true))
  · have hdue : (s.station.takesPart && r.isSilent s.silenceLimit) = true :=
      Bool.and_eq_true_iff.2 ⟨htakes, isSilent_iff.2 ⟨hpresent, hsilent.trans hlimit.symm⟩⟩
    have hdeparts : s.silentPeer station = s.depart station .absent .silent := by
      rw [State.silentPeer, hr]
      exact if_pos hdue
    have hagrees := agrees_of_sound hs
    have htested := (hagrees.depart station .absent .silent).lossReady.tested
    refine ⟨_, _, rfl, depart_departed station .absent .silent hagrees.lossReady, fun hd => ?_, fun _ => ?_⟩
    · rw [hdeparts]
      exact tryBegin_waits hd
    · rw [hdeparts]
      exact htested
  · have hstays : s.silentPeer station = s := by
      unfold State.silentPeer
      split
      · rfl
      next r hr =>
        refine if_neg fun hc => ?_
        obtain ⟨htakes, hsilent⟩ := Bool.and_eq_true_iff.1 hc
        obtain ⟨hpresent, hsilent⟩ := isSilent_iff.1 hsilent
        rcases hno with ho | hno
        · rw [htakes] at ho
          cases ho
        · exact (hno r hr).elim (fun hne => hne hpresent) fun hne => hne (hsilent.trans hlimit)
    change Host.Outcome.next (s.silentPeer station).tryBegin = _
    rw [hstays, tryBegin_none hs.settled]

/-! ## The timers of the account and of the attempt -/

theorem exec_openGraceExpiry (hp : s.profile = some p) (hm : s.station.clockMode = .running) (hk : k < p.slots) :
    exec (.openGraceExpiry k) s =
      .next ((s.movedTo (p.settle + k * p.slotLength + 20 + p.grace)).graceExpired k).tryBegin := by
  have hr : (s.running && decide (k < p.slots)) = true :=
    Bool.and_eq_true_iff.2 ⟨decide_eq_true hm, decide_eq_true hk⟩
  change execOpenGraceExpiry k s = _
  rw [execOpenGraceExpiry, hp]
  dsimp only
  rw [if_pos hr, passTo_movedTo]
  rfl

theorem waitExpired_iff : s.waitExpired = true ↔ ∃ c, s.catchUp = some c ∧ c.phase = .requested 0 := by
  unfold State.waitExpired
  split
  next w n wait cancelled hc => simp [hc]
  next hno =>
    refine iff_of_false Bool.false_ne_true ?_
    rintro ⟨⟨w, n, phase, cancelled⟩, hc, rfl⟩
    exact hno w n 0 cancelled hc

theorem stallExpired_iff :
    s.stallExpired = true ↔ ∃ c donor received, s.catchUp = some c ∧ c.phase = .copying donor 0 received := by
  unfold State.stallExpired
  split
  next w n donor stall received cancelled hc => simp [hc]
  next hno =>
    refine iff_of_false Bool.false_ne_true ?_
    rintro ⟨⟨w, n, phase, cancelled⟩, donor, received, hc, rfl⟩
    exact hno w n donor 0 received cancelled hc

/-- The attempt in progress fails as its law has it, in a sound station. -/
theorem failAttempt_ofSound (hs : s.Sound) {c : CatchUp} (hc : s.catchUp = some c) (kind : FailureKind) :
    AttemptFailed kind s (s.failAttempt kind) := by
  have hcatching := (hs.windows.catchingUp c.window).2 ⟨c, hc, rfl⟩
  exact failAttempt_failed kind hc (by rw [hcatching]; decide)
    (not_mem_resync (agrees_of_sound hs).lossReady (by rw [hcatching]; decide))

/-- Settles O53, timer by timer. -/
theorem accountAndAttemptTimersExpire : Obligations.AccountAndAttemptTimersExpire := by
  intro s hs
  have hagrees := agrees_of_sound hs
  refine ⟨fun p k hp hm hk => ?_, fun c hc hphase => ?_, fun c donor received hc hphase => ?_, fun hno => ?_, fun hno => ?_⟩
  · have hmoved : Agrees (s.movedTo (p.settle + k * p.slotLength + 20 + p.grace)) := by
      rw [← passTo_movedTo]
      exact hagrees.steady (passTo_steady (position_of_running hs.clock hm) _)
    rw [exec_openGraceExpiry hp hm hk]
    refine ⟨_, _, rfl, ?_, (hmoved.graceExpired k).lossReady.tested⟩
    have hexpired (a : Option Account) (ha : s.account = a) :
        (s.movedTo (p.settle + k * p.slotLength + 20 + p.grace)).account = a := ha
    unfold State.graceExpired
    cases ha : s.account with
    | none => rw [hexpired none ha]
    | some a =>
      rw [hexpired (some a) ha]
      dsimp only
      split
      · exact endUnclosed_ended a .expired hmoved.lossReady
      · rfl
  · have hexpires : s.expireWait = s.failAttempt .waitExpired := if_pos (waitExpired_iff.2 ⟨c, hc, hphase⟩)
    refine ⟨s.expireWait, _, rfl, ?_, hagrees.expireWait.lossReady.tested⟩
    rw [hexpires]
    exact failAttempt_ofSound hs hc _
  · have hexpires : s.expireStall = s.failAttempt .stallExpired :=
      if_pos (stallExpired_iff.2 ⟨c, donor, received, hc, hphase⟩)
    refine ⟨s.expireStall, _, rfl, ?_, hagrees.expireStall.lossReady.tested⟩
    rw [hexpires]
    exact failAttempt_ofSound hs hc _
  · have hstays : s.expireWait = s := if_neg fun hw => by
      obtain ⟨c, hc, hphase⟩ := waitExpired_iff.1 hw
      exact hno c hc hphase
    change Host.Outcome.next s.expireWait.tryBegin = _
    rw [hstays, tryBegin_none hs.settled]
  · have hstays : s.expireStall = s := if_neg fun hw => by
      obtain ⟨c, donor, received, hc, hphase⟩ := stallExpired_iff.1 hw
      exact hno c donor received hc hphase
    change Host.Outcome.next s.expireStall.tryBegin = _
    rw [hstays, tryBegin_none hs.settled]

/-! ## The line's timers -/

/-- The lowest owned slot is the first that the allotment gives this station. -/
theorem lowestOwned_eq (hown : p.allotment[k]? = some p.station)
    (hfirst : ∀ j, j < k → p.allotment[j]? ≠ some p.station) : p.lowestOwned = k := by
  obtain ⟨hk, hat⟩ := List.getElem?_eq_some_iff.1 hown
  refine (List.findIdx_eq hk).2 ⟨by simp [hat], fun j hj => ?_⟩
  have hj' : j < p.allotment.length := hj.trans hk
  have hne := hfirst j hj
  rw [List.getElem?_eq_getElem hj'] at hne
  simpa using hne

/-- Settles O54, timer by timer. -/
theorem lineTimersMoveTheStation : Obligations.LineTimersMoveTheStation := by
  intro s p hp
  have hquiet : exec .quietTimerExpiry s =
      if s.station = .listening ∧ s.clock.quiet = some 0 then .next (s.enterColdStart p) else .next s := by
    change execQuietTimerExpiry s = _
    rw [execQuietTimerExpiry, hp]
  have hjoin : exec .joinTimerExpiry s =
      if s.station = .listening ∧ s.clock.join = some 0 then .next (s.joinExpired p) else .next s := by
    change execJoinTimerExpiry s = _
    rw [execJoinTimerExpiry, hp]
  have hstandoff : exec .standoffTimerExpiry s =
      if s.station = .standoff ∧ s.clock.standoff = some 0 then .next (s.standoffExpired p) else .next s := by
    change execStandoffTimerExpiry s = _
    rw [execStandoffTimerExpiry, hp]
  dsimp only
  rw [hquiet, hjoin, hstandoff]
  refine ⟨fun k hl hzero hk hown hfirst => ?_, fun hl hzero hclear => ?_, fun hl hzero hset => ?_, fun hl hzero => ?_,
    fun hno => ?_, fun hno => ?_, fun hno => ?_⟩
  · have hentered := enter_reports s .coldStart .quietExpired 0
    rw [hl] at hentered
    obtain ⟨u, hu, hstarted⟩ : ∃ u : State, u = { s.enter .coldStart .quietExpired 0 with
        leavePending := false, openFailures := 0
        clock := { (s.clock.leaveRunning).stopTimers with position := some (p.slotStart k), foreignMark := false } } ∧
        s.enterColdStart p = u.slotStarted p k := by
      refine ⟨_, rfl, ?_⟩
      rw [State.enterColdStart, lowestOwned_eq hown hfirst]
    have hat : u.clock.position = some (p.settle + k * p.slotLength) := by rw [hu]; rfl
    have hstart := exec_slotStart (s := u) (by rw [hu]; exact hp) (by rw [hu]; rfl) hk
    rw [← passTo_movedTo, passTo_here hat, ← hstarted] at hstart
    rw [if_pos ⟨hl, hzero⟩]
    refine ⟨u, _, rfl, hstart, ?_, ?_⟩
    · rw [hu]
      exact hentered.of_eq rfl rfl
    · rw [hu]
      rfl
  · have hno : ¬ s.clock.foreignMark = true := by rw [hclear]; exact Bool.false_ne_true
    rw [if_pos ⟨hl, hzero⟩, State.joinExpired, if_neg hno, ← hclear]
    rfl
  · have hentered := enter_reports s .muted .joinLimit 0
    rw [hl] at hentered
    rw [if_pos ⟨hl, hzero⟩, State.joinExpired, if_pos hset]
    exact ⟨_, rfl, hentered.of_eq rfl rfl, rfl⟩
  · have hentered := enter_reports s .listening .standoffExpired 0
    rw [hl] at hentered
    have hfresh : s.freshRoster = p.peers.map fun peer => { station := peer } := by
      rw [State.freshRoster, hp]
      rfl
    rw [if_pos ⟨hl, hzero⟩, State.standoffExpired, hfresh]
    exact ⟨_, rfl, hentered.of_eq rfl rfl, rfl⟩
  · rw [if_neg fun hc => hno.elim (fun h => h hc.1) fun h => h hc.2]
  · rw [if_neg fun hc => hno.elim (fun h => h hc.1) fun h => h hc.2]
  · rw [if_neg fun hc => hno.elim (fun h => h hc.1) fun h => h hc.2]

end Sys2Proof.Proofs

/-! Frames as bytes: what is sent is read back (R42, R51, R55, R172). -/

namespace Sys2Proof.Proofs

-- One proof at a time: every further thread of the elaborator counts against the memory limit.
set_option Elab.async false

open Sys2Proof Sys2Proof.Machine Sys2Proof.Laws

/-! ### The fields of a body -/

/-- The byte of a 16-bit value and the one below it, put together again (R172). -/
theorem halfIn_bytes (h : Half) : halfIn ((h >>> 8).setWidth 8) (h.setWidth 8) = h := by
  refine BitVec.eq_of_getLsbD_eq fun i hi => ?_
  rw [halfIn, BitVec.getLsbD_append]
  split <;>
    simp only [BitVec.getLsbD_setWidth, BitVec.getLsbD_ushiftRight] <;>
    grind

theorem wordOf_bytes (w : Word) : wordOf (wordByte w 0) (wordByte w 1) (wordByte w 2) (wordByte w 3) = w := by
  refine BitVec.eq_of_getLsbD_eq fun i hi => ?_
  simp only [wordOf, wordByte, BitVec.getLsbD_append, BitVec.getLsbD_setWidth, BitVec.getLsbD_ushiftRight]
  grind

/-- A field narrower than its byte or bytes is read back whole (R172). -/
theorem setWidth_setWidth_of_le {n m : Nat} (b : BitVec n) (h : n ≤ m) : (b.setWidth m).setWidth n = b := by
  rw [BitVec.setWidth_setWidth_of_le b h, BitVec.setWidth_eq]

theorem blockIn_bytes (b : BitVec 10) :
    blockIn (((b.setWidth 16 : Half) >>> 8).setWidth 8) ((b.setWidth 16 : Half).setWidth 8) = b := by
  rw [blockIn, halfIn_bytes, setWidth_setWidth_of_le b (by decide)]

theorem windowIn_byte (w : WindowNo) : windowIn (windowByte w) = w := by
  refine Fin.ext ?_
  have hw := w.isLt
  simp only [windowIn, windowByte, BitVec.toNat_ofNat]
  omega

/-- The two marks of an OPEN stand in the two lowest bits of its flags byte (R172). -/
theorem openFlags_bits (cold leaving : Bool) :
    (openFlags cold leaving).getLsbD 0 = cold ∧ (openFlags cold leaving).getLsbD 1 = leaving := by
  cases cold <;> cases leaving <;> decide

theorem wordsBytes_cons (w : Word) (words : List Word) : wordsBytes (w :: words) = bytesOfWord w ++ wordsBytes words :=
  rfl

theorem wordsBytes_length (words : List Word) : (wordsBytes words).length = 4 * words.length := by
  induction words with
  | nil => rfl
  | cons w rest ih =>
    rw [wordsBytes_cons, List.length_append, ih, List.length_cons]
    simp only [bytesOfWord, List.length_cons, List.length_nil]
    omega

theorem wordsIn_bytes (words : List Word) : wordsIn (wordsBytes words) = some words := by
  induction words with
  | nil => rfl
  | cons w rest ih =>
    rw [wordsBytes_cons]
    simp only [bytesOfWord, List.cons_append, List.nil_append, wordsIn, ih, Option.map_some, wordOf_bytes]

/-! ### A body and a frame -/

/-- An UPD carries 1 to 16 words and a CBLK 16 (R43). -/
def WordsFit : FrameBody → Prop
  | .upd _ _ _ words => 1 ≤ words.length ∧ words.length ≤ 16
  | .cblk _ _ _ words => words.length = 16
  | _ => True

/-- A body has as many bytes as its kind says (R43, R172). -/
theorem bytes_length (b : FrameBody) : (FrameBody.bytes b).length = bodyLength b := by
  cases b with
  | upd w first block words | cblk joiner w block words =>
    simp only [FrameBody.bytes, blockBytes, bytesOfHalf, List.length_append, wordsBytes_length, bodyLength,
      List.length_cons, List.length_nil]
  | _ => rfl

theorem bodyLength_le {b : FrameBody} (h : WordsFit b) : bodyLength b ≤ 68 := by
  cases b with
  | upd w first block words | cblk joiner w block words =>
    simp only [WordsFit] at h
    simp only [bodyLength]
    omega
  | _ => exact Nat.le_of_ble_eq_true rfl

theorem updIn_bytes (w : WindowNo) (first : BitVec 4) (block : BitVec 10) {words : List Word}
    (h : 1 ≤ words.length ∧ words.length ≤ 16) :
    updIn (FrameBody.bytes (.upd w first block words)) = some (.upd w first block words) := by
  have hok : updWordsOk words = true := by
    simp only [updWordsOk, Bool.and_eq_true, decide_eq_true_eq]
    exact h
  simp only [FrameBody.bytes, blockBytes, bytesOfHalf, List.cons_append, List.nil_append, updIn, wordsIn_bytes,
    windowIn_byte, blockIn_bytes, hok, if_true, setWidth_setWidth_of_le first (show 4 ≤ 8 by decide)]

theorem cblkIn_bytes (joiner : StationNo) (w : WindowNo) (block : BitVec 10) {words : List Word}
    (h : words.length = 16) :
    cblkIn (FrameBody.bytes (.cblk joiner w block words)) = some (.cblk joiner w block words) := by
  have hok : blockWordsOk words = true := decide_eq_true h
  simp only [FrameBody.bytes, blockBytes, bytesOfHalf, List.cons_append, List.nil_append, cblkIn, wordsIn_bytes,
    windowIn_byte, blockIn_bytes, hok, if_true]

/-- A body's bytes under its kind are read back as the body (R43, R172). -/
theorem bodyIn_bytes {b : FrameBody} (h : WordsFit b) : bodyIn (FrameBody.kindCode b) (FrameBody.bytes b) = some b := by
  cases b with
  | upd w first block words => exact updIn_bytes w first block h
  | cblk joiner w block words => exact cblkIn_bytes joiner w block h
  | opn digest cold leaving current =>
    obtain ⟨hcold, hleaving⟩ := openFlags_bits cold leaving
    have hread : bodyIn (FrameBody.kindCode (.opn digest cold leaving current))
        (FrameBody.bytes (.opn digest cold leaving current)) =
        some (.opn (halfIn ((digest >>> 8).setWidth 8) (digest.setWidth 8)) ((openFlags cold leaving).getLsbD 0)
          ((openFlags cold leaving).getLsbD 1)
          (wordOf (wordByte current 0) (wordByte current 1) (wordByte current 2) (wordByte current 3))) := rfl
    rw [hread, halfIn_bytes, wordOf_bytes, hcold, hleaving]
  | close updates frames touched =>
    have hread : bodyIn (FrameBody.kindCode (.close updates frames touched))
        (FrameBody.bytes (.close updates frames touched)) = some (.close updates frames
          (wordOf (wordByte touched 0) (wordByte touched 1) (wordByte touched 2) (wordByte touched 3))) := rfl
    rw [hread, wordOf_bytes]
  | ntc target level tag =>
    have hread : bodyIn (FrameBody.kindCode (.ntc target level tag)) (FrameBody.bytes (.ntc target level tag)) =
        some (.ntc target ((level.setWidth 8).setWidth 3) (halfIn ((tag >>> 8).setWidth 8) (tag.setWidth 8))) := rfl
    rw [hread, halfIn_bytes, setWidth_setWidth_of_le level (by decide)]
  | creq w attempt first last =>
    have hread : bodyIn (FrameBody.kindCode (.creq w attempt first last)) (FrameBody.bytes (.creq w attempt first last)) =
        some (.creq (windowIn (windowByte w)) ((attempt.setWidth 8).setWidth 3)
          (blockIn (((first.setWidth 16 : Half) >>> 8).setWidth 8) ((first.setWidth 16 : Half).setWidth 8))
          (blockIn (((last.setWidth 16 : Half) >>> 8).setWidth 8) ((last.setWidth 16 : Half).setWidth 8))) := rfl
    rw [hread, windowIn_byte, blockIn_bytes, blockIn_bytes, setWidth_setWidth_of_le attempt (by decide)]
  | cbeg joiner w first last =>
    have hread : bodyIn (FrameBody.kindCode (.cbeg joiner w first last)) (FrameBody.bytes (.cbeg joiner w first last)) =
        some (.cbeg joiner (windowIn (windowByte w))
          (blockIn (((first.setWidth 16 : Half) >>> 8).setWidth 8) ((first.setWidth 16 : Half).setWidth 8))
          (blockIn (((last.setWidth 16 : Half) >>> 8).setWidth 8) ((last.setWidth 16 : Half).setWidth 8))) := rfl
    rw [hread, windowIn_byte, blockIn_bytes, blockIn_bytes]
  | cend joiner w count =>
    have hread : bodyIn (FrameBody.kindCode (.cend joiner w count)) (FrameBody.bytes (.cend joiner w count)) =
        some (.cend joiner (windowIn (windowByte w)) (halfIn ((count >>> 8).setWidth 8) (count.setWidth 8))) := rfl
    rw [hread, windowIn_byte, halfIn_bytes]
  | ccan donor w => exact congrArg (fun v => some (FrameBody.ccan donor v)) (windowIn_byte w)
  | cabt joiner w => exact congrArg (fun v => some (FrameBody.cabt joiner v)) (windowIn_byte w)

/-- The bytes that a frame's check covers are read back as the frame (R42, R172). -/
theorem frameIn_covered {f : Frame} (h : WordsFit f.body) : frameIn (Frame.covered f) = some f := by
  have hlen : (byteOf (bodyLength f.body)).toNat = (FrameBody.bytes f.body).length := by
    have := bodyLength_le h
    rw [bytes_length, byteOf, BitVec.toNat_ofNat]
    omega
  simp only [Frame.covered, bytesOfHalf, List.cons_append, List.nil_append, frameIn, hlen, if_true, bodyIn_bytes h,
    Option.map_some, halfIn_bytes]

/-! ### The readback -/

theorem lineBytes_drop (f : Frame) :
    (Frame.lineBytes f).drop 2 = Frame.covered f ++ bytesOfWord (frameCheck (Frame.covered f)) := rfl

/-- What stands before the last four bytes, and those four (R51). -/
theorem append_check_split (bytes : List Byte) (check : Word) :
    (bytes ++ bytesOfWord check).take ((bytes ++ bytesOfWord check).length - 4) = bytes ∧
      (bytes ++ bytesOfWord check).drop ((bytes ++ bytesOfWord check).length - 4) = bytesOfWord check := by
  have hlen : (bytes ++ bytesOfWord check).length - 4 = bytes.length := by
    rw [List.length_append]
    exact Nat.add_sub_cancel _ _
  rw [hlen]
  exact ⟨List.take_left, List.drop_left⟩

/-- The bytes of a frame pass its check (R51). -/
theorem passesCheck_covered (f : Frame) : passesCheck ((Frame.lineBytes f).drop 2) = true := by
  obtain ⟨htake, hdrop⟩ := append_check_split (Frame.covered f) (frameCheck (Frame.covered f))
  rw [lineBytes_drop, passesCheck, htake, hdrop]
  exact decide_eq_true rfl

/-- A frame that is not malformed as one of the own station's is well formed as it comes back (R53, R55). -/
theorem wellFormedOwn_covered {s : State} {f : Frame} (h : WordsFit f.body)
    (hown : s.malformedOwn f.header f.body = false) : s.wellFormedOwn ((Frame.lineBytes f).drop 2) = true := by
  obtain ⟨htake, -⟩ := append_check_split (Frame.covered f) (frameCheck (Frame.covered f))
  simp only [State.wellFormedOwn, lineBytes_drop, htake, frameIn_covered h, hown, Bool.not_false]

/-- Settles O60, each kind of body read back from its own bytes and the readback judged on the frame's line bytes. -/
theorem frameBytesAreReadBack : Obligations.FrameBytesAreReadBack := by
  intro f hupd hcblk
  have hfit : WordsFit f.body := by
    cases hbody : f.body with
    | upd w first block words => exact hupd w first block words hbody
    | cblk joiner w block words => exact hcblk joiner w block words hbody
    | _ => trivial
  refine ⟨frameIn_covered hfit, fun s received hown => ?_⟩
  constructor
  · intro hintact
    rw [State.readbackIntact, Bool.and_eq_true] at hintact
    exact of_decide_eq_true hintact.2
  · rintro rfl
    rw [State.readbackIntact, passesCheck_covered, wellFormedOwn_covered hfit hown]
    exact decide_eq_true rfl

end Sys2Proof.Proofs

/-! An OPEN within the open grace: the alignment over the happenings it passes (R62, R66, R67, R70). -/

namespace Sys2Proof.Proofs

-- One proof at a time: every further thread of the elaborator counts against the memory limit.
set_option Elab.async false

open Sys2Proof Sys2Proof.Machine Sys2Proof.Laws

variable {s t u base : State} {p : Profile} {n k : Nat}

/-! ### What no happening changes of the windows and of the Roster -/

/-- The windows have the same global lengths, and the Roster has records of the same stations. -/
structure SameShape (s t : State) : Prop where
  lengths : ∀ w, (t.window w).globalLength = (s.window w).globalLength := by exact fun _ => rfl
  stations : t.roster.map RosterRecord.station = s.roster.map RosterRecord.station := by rfl

theorem SameShape.refl (s : State) : SameShape s s := {}

theorem SameShape.trans (h1 : SameShape s t) (h2 : SameShape t u) : SameShape s u where
  lengths w := (h2.lengths w).trans (h1.lengths w)
  stations := h2.stations.trans h1.stations

theorem SameShape.foldl {α : Type} {f : State → α → State} (hf : ∀ s a, SameShape s (f s a)) :
    ∀ (l : List α) (s : State), SameShape s (l.foldl f s)
  | [], s => .refl s
  | a :: l, s => (hf s a).trans (SameShape.foldl hf l (f s a))

theorem sameShape_of_eq (hw : t.windows = s.windows) (hr : t.roster = s.roster) : SameShape s t where
  lengths w := congrArg WindowRecord.globalLength (window_congr s hw w)
  stations := congrArg (List.map RosterRecord.station) hr

theorem sameShape_of_copySide (h : CopySide s t) : SameShape s t := by
  rw [h]
  exact {}

theorem changeCurrency_sameShape (s : State) (w : WindowNo) (next : Currency) (attempts : Nat) (cause : WindowCause)
    (failure : Option FailureKind) : SameShape s (s.changeCurrency w next attempts cause failure) where
  lengths v := by
    have hwindows := changeCurrency_windows (s := s) w next attempts cause failure
    refine (congrArg WindowRecord.globalLength (window_congr (s.setWindow w _) hwindows v)).trans ?_
    rw [setWindow_window]
    split
    next h => rw [← h]
    next => rfl
  stations := by rw [changeCurrency_side s w next attempts cause failure]

theorem failWindow_sameShape (s : State) (w : WindowNo) (kind : FailureKind) : SameShape s (s.failWindow w kind) := by
  unfold State.failWindow
  dsimp only
  split
  · exact (changeCurrency_sameShape s w _ _ _ _).trans {}
  · exact (changeCurrency_sameShape s w _ _ _ _).trans {}

theorem failAttempt_sameShape (s : State) (kind : FailureKind) : SameShape s (s.failAttempt kind) := by
  unfold State.failAttempt
  split
  · exact .refl s
  next c _ =>
    have hcontrol : SameShape s (s.failControl c kind) := by
      unfold State.failControl
      split
      · exact {}
      · split <;> exact {}
    exact hcontrol.trans (failWindow_sameShape _ _ _)

theorem loss_sameShape (s : State) (w : WindowNo) : SameShape s (s.loss w) := by
  unfold State.loss
  cases (s.window w).currency with
  | current =>
    dsimp only
    split
    · exact (changeCurrency_sameShape s w _ _ _ _).trans {}
    · exact changeCurrency_sameShape s w _ _ _ _
  | catchingUp => exact failAttempt_sameShape s .loss
  | _ => exact .refl s

theorem tryBegin_sameShape (s : State) : SameShape s s.tryBegin := by
  unfold State.tryBegin
  split
  · split
    · exact .refl s
    · unfold State.beginAttempt
      exact SameShape.trans {} (changeCurrency_sameShape _ _ _ _ _ _)
  · exact .refl s

theorem updateRoster_sameShape (s : State) (station : StationNo) {f : RosterRecord → RosterRecord}
    (hf : ∀ r, (f r).station = r.station) : SameShape s (s.updateRoster station f) where
  stations := by
    refine (List.map_map ..).trans (List.map_congr_left fun r _ => ?_)
    simp only [Function.comp_apply]
    split
    · exact hf r
    · rfl

theorem depart_sameShape (s : State) (station : StationNo) (next : RosterState) (cause : DepartCause) :
    SameShape s (s.depart station next cause) := by
  unfold State.depart
  split
  · exact .refl s
  · dsimp only
    have hmoved := updateRoster_sameShape s station (f := fun r => { r with state := next }) fun _ => rfl
    have hdonor (v : State) : SameShape v (v.donorDeparted station) := by
      unfold State.donorDeparted
      split
      · split
        · exact failAttempt_sameShape v _
        · exact .refl v
      · exact .refl v
    split
    · exact (hmoved.trans {}).trans ((hdonor _).trans (sameShape_of_copySide (joinerDeparted_side _ station)))
    · exact hmoved

theorem deliver_sameShape (s : State) (notice : Notice) : SameShape s (s.deliver notice) := by
  unfold State.deliver
  split <;> exact {}

theorem graceExpired_sameShape (s : State) (k : Nat) : SameShape s (s.graceExpired k) := by
  have hfinish (v : State) (a : Account) : SameShape v (v.finishAccount a) := by
    have hdelivered : SameShape v (v.deliverAll a.held) :=
      SameShape.foldl deliver_sameShape _ _
    unfold State.finishAccount
    dsimp only
    split
    · exact hdelivered.trans (depart_sameShape _ _ _ _)
    · exact hdelivered
  unfold State.graceExpired
  split
  · exact .refl s
  · split
    · unfold State.endUnclosed
      refine SameShape.trans ?_ (hfinish _ _)
      unfold State.losses
      exact SameShape.trans {} (SameShape.foldl loss_sameShape _ _)
    · exact .refl s

theorem silentPeer_sameShape (s : State) (station : StationNo) : SameShape s (s.silentPeer station) := by
  unfold State.silentPeer
  split
  · exact .refl s
  · split
    · exact depart_sameShape s _ _ _
    · exact .refl s

theorem examineRoster_sameShape (s : State) : SameShape s s.examineRoster := by
  unfold State.examineRoster
  split
  · refine { stations := (List.map_map ..).trans (List.map_congr_left fun r _ => ?_) }
    simp only [Function.comp_apply, RosterRecord.examine]
    split <;> rfl
  · exact .refl s

theorem reduceColdMarks_sameShape (s : State) : SameShape s s.reduceColdMarks := by
  unfold State.reduceColdMarks
  split
  · refine { lengths := fun w => ?_, stations := by rw [mapWindows_side s _] }
    rw [mapWindows_window, WindowRecord.reduceMark]
    split
    · rfl
    · split <;> rfl
  · exact .refl s

theorem expire_sameShape (s : State) :
    SameShape s s.expireWait.tryBegin ∧ SameShape s s.expireStall.tryBegin := by
  have hfail (due : Bool) (kind : FailureKind) : SameShape s (if due then s.failAttempt kind else s) := by
    split
    · exact failAttempt_sameShape s kind
    · exact .refl s
  exact ⟨(hfail _ _).trans (tryBegin_sameShape _), (hfail _ _).trans (tryBegin_sameShape _)⟩

/-- A station that has a record has one still. -/
theorem rosterOf_sameShape (h : SameShape s t) {station : StationNo} (hr : s.rosterOf station ≠ none) :
    ∃ r, t.rosterOf station = some r := by
  have hmem (v : State) : (v.rosterOf station).isSome = true ↔ station ∈ v.roster.map RosterRecord.station := by
    simp [State.rosterOf]
  have hsome := (hmem s).1 (Option.isSome_iff_ne_none.2 hr)
  rw [← h.stations] at hsome
  exact Option.isSome_iff_exists.1 ((hmem t).2 hsome)

/-! ### What the passing of a happening leaves to the OPEN -/

/-- No sync loss waits, and the marks of the round are not those of a misaligned one (R70). -/
def InStep (c : Clock) : Prop := c.syncLoss = false ∧ (c.misalignedMark && !c.onTimeMark) = false

/-- The station is where it was, at the same instant, in step as before, with windows and records of the same shape. -/
structure Onward (s t : State) : Prop extends SameShape s t where
  profile : t.profile = s.profile := by rfl
  station : t.station = s.station := by rfl
  position : t.clock.position = s.clock.position := by rfl
  inStep : InStep s.clock → InStep t.clock := by exact id

theorem Onward.refl (s : State) : Onward s s := {}

theorem Onward.trans (h1 : Onward s t) (h2 : Onward t u) : Onward s u where
  toSameShape := h1.toSameShape.trans h2.toSameShape
  profile := h2.profile.trans h1.profile
  station := h2.station.trans h1.station
  position := h2.position.trans h1.position
  inStep h := h2.inStep (h1.inStep h)

theorem onward_of_apply (h : ApplySide s t) (hshape : SameShape s t) : Onward s t where
  toSameShape := hshape
  profile := by rw [h]
  station := by rw [h]
  position := by rw [h]
  inStep := by
    rw [h]
    exact id

theorem onward_of_steady (h : Steady s t) (hclock : t.clock = { s.clock with quiet := t.clock.quiet }) : Onward s t where
  toSameShape := sameShape_of_eq h.windows h.roster
  profile := h.profile
  station := h.station
  position := by rw [hclock]
  inStep := by
    rw [hclock]
    exact id

/-! ### The happenings of a slot -/

/-- A frame that is offered ends a reception with a report, which starts a running quiet timer again (R52, R54). -/
theorem takeFrame_clock (s : State) (p : Profile) (f : Filling) (b : FrameBody) :
    (s.takeFrame p f b).clock = { s.clock with quiet := (s.takeFrame p f b).clock.quiet } := by
  have hactive (v : State) : v.lineActivity.clock = { v.clock with quiet := v.lineActivity.clock.quiet } := by
    unfold State.lineActivity
    split <;> rfl
  unfold State.takeFrame
  dsimp only
  split
  · unfold State.corruptReport
    split
    · exact hactive s
    · exact hactive s
  · rfl

theorem slotEnded_onward (s : State) (p : Profile) (k : Nat) : Onward s (s.slotEnded p k) := by
  refine onward_of_steady (slotEnded_steady s p k) ?_
  unfold State.slotEnded
  split
  · split
    · rfl
    next f _ =>
      dsimp only
      split
      · exact takeFrame_clock { s.setFilling f.restrict with copyRead := none } p f.restrict f.restrict.closeBody
      · rfl
  · rfl

theorem slotStarted_onward (s : State) (p : Profile) (k : Nat) : Onward s (s.slotStarted p k) := by
  refine onward_of_steady (slotStarted_steady s p k) ?_
  have hopen (v : State) (f : Filling) : (v.offerOpen p f).clock = { v.clock with quiet := (v.offerOpen p f).clock.quiet } := by
    unfold State.offerOpen
    split
    · rfl
    · exact takeFrame_clock v p f (v.openBody p f)
  have hstart (v : State) : (v.ownSlotStart p k).clock = { v.clock with quiet := (v.ownSlotStart p k).clock.quiet } := by
    unfold State.ownSlotStart
    cases v.station with
    | coldStart | active =>
      dsimp only
      split
      · rfl
      · split
        · exact hopen _ _
        · rfl
    | leaving =>
      dsimp only
      split
      · rfl
      · split
        · exact hopen _ _
        · split <;> rfl
    | _ => rfl
  unfold State.slotStarted
  split
  · exact hstart _
  · rfl

/-- The command of a happening (R62). -/
def happeningRow : Happening → Instr
  | .slotEnd k => .slotEnd k
  | .slotStart k => .slotStart k
  | .graceExpiry k => .openGraceExpiry k
  | .roundEnd => .roundEnd

/-- The happening is one of a slot whose instant is a position (R62). -/
def OfSlot (p : Profile) (n : Nat) : Happening → Prop
  | .slotEnd k => k < p.slots ∧ n = p.settle + (k + 1) * p.slotLength
  | .slotStart k => k < p.slots ∧ n = p.settle + k * p.slotLength
  | .graceExpiry k => k < p.slots ∧ n = p.settle + k * p.slotLength + 20 + p.grace
  | .roundEnd => False

/-- The happenings of the slots at a position (R62). -/
def slotsAt (p : Profile) (n : Nat) : List Happening := ((List.range p.slots).map (p.slotHappenings n)).flatten

theorem slotsAt_rows (p : Profile) (n : Nat) : (slotsAt p n).map happeningRow = p.rowsAt n := by
  have hslot (k : Nat) : (p.slotHappenings n k).map happeningRow =
      (if n = p.settle + k * p.slotLength + p.slotLength then [Instr.slotEnd k] else []) ++
      (if n = p.settle + k * p.slotLength then [Instr.slotStart k] else []) ++
      (if n = p.settle + k * p.slotLength + 20 + p.grace then [Instr.openGraceExpiry k] else []) := by
    have hmap (c : Prop) [Decidable c] (x : Happening) :
        (if c then [x] else []).map happeningRow = if c then [happeningRow x] else [] := by
      split <;> rfl
    simp only [Profile.slotHappenings, List.map_append, hmap, happeningRow]
    rfl
  rw [slotsAt, Profile.rowsAt, List.map_flatten, List.map_map]
  exact congrArg List.flatten (List.map_congr_left fun k _ => hslot k)

theorem slotsAt_ofSlot {x : Happening} (hx : x ∈ slotsAt p n) : OfSlot p n x := by
  obtain ⟨l, hl, hxl⟩ := List.mem_flatten.1 hx
  obtain ⟨k, hk, rfl⟩ := List.mem_map.1 hl
  have hslot := List.mem_range.1 hk
  simp only [Profile.slotHappenings, List.mem_append, List.mem_ite_nil_right, List.mem_singleton] at hxl
  rcases hxl with (⟨hn, rfl⟩ | ⟨hn, rfl⟩) | ⟨hn, rfl⟩
  · refine ⟨hslot, hn.trans ?_⟩
    unfold Profile.slotStart
    ring
  · exact ⟨hslot, hn⟩
  · exact ⟨hslot, hn⟩

/-- At its instant a happening of a slot is raised as its command acts. -/
theorem exec_row (hp : s.profile = some p) (hm : s.station.clockMode = .running) (hn : s.clock.position = some n)
    (order : List RoundEndTask) {x : Happening} (hx : OfSlot p n x) :
    exec (happeningRow x) s = .next (State.raise p order s x) := by
  have hhere : s.movedTo n = s := (passTo_movedTo n).symm.trans (passTo_here hn)
  cases x with
  | slotEnd k =>
    obtain ⟨hk, rfl⟩ := hx
    refine (exec_slotEnd hp hm hk).trans ?_
    rw [hhere]
    rfl
  | slotStart k =>
    obtain ⟨hk, rfl⟩ := hx
    refine (exec_slotStart hp hm hk).trans ?_
    rw [hhere]
    rfl
  | graceExpiry k =>
    obtain ⟨hk, rfl⟩ := hx
    refine (exec_openGraceExpiry hp hm hk).trans ?_
    rw [hhere]
    rfl
  | roundEnd => exact absurd hx id

theorem raise_onward (order : List RoundEndTask) {x : Happening} (hx : OfSlot p n x) :
    Onward s (State.raise p order s x) := by
  cases x with
  | slotEnd k => exact slotEnded_onward s p k
  | slotStart k => exact slotStarted_onward s p k
  | graceExpiry k =>
    exact onward_of_apply ((graceExpired_side s k).trans (tryBegin_side _).toApplySide)
      ((graceExpired_sameShape s k).trans (tryBegin_sameShape _))
  | roundEnd => exact absurd hx id

theorem runs_raised (order : List RoundEndTask) : ∀ (l : List Happening) {s : State}, s.profile = some p →
    s.station.clockMode = .running → s.clock.position = some n → (∀ x ∈ l, OfSlot p n x) →
    Runs (l.map happeningRow) s (l.foldl (State.raise p order) s) ∧ Onward s (l.foldl (State.raise p order) s)
  | [], s, _, _, _, _ => ⟨rfl, .refl s⟩
  | x :: l, s, hp, hm, hn, hl => by
    have hx := hl x List.mem_cons_self
    have hraised : Onward s (State.raise p order s x) := raise_onward order hx
    obtain ⟨hruns, honward⟩ := runs_raised order l (hraised.profile.trans hp)
      ((congrArg StationState.clockMode hraised.station).trans hm) (hraised.position.trans hn)
      fun y hy => hl y (List.mem_cons_of_mem x hy)
    exact ⟨⟨_, exec_row hp hm hn order hx, hruns⟩, hraised.trans honward⟩

/-! ### A round end -/

/-- In step, the test clears the marks and takes no station off the line (R70). -/
theorem misalignedTest_onward (hin : InStep s.clock) : Onward s (s.runTask .misalignedTest) := by
  obtain ⟨hloss, hmarks⟩ := hin
  have htested : Onward s s.testRound := by
    refine { toSameShape := sameShape_of_eq (testRound_steady s).windows (testRound_steady s).roster
             profile := (testRound_steady s).profile, station := (testRound_steady s).station, position := ?_, inStep := ?_ }
    · unfold State.testRound
      split <;> rfl
    · intro hs
      unfold State.testRound
      split
      · refine ⟨?_, rfl⟩
        simp only [Clock.testRound, hloss, hmarks]
        rfl
      · exact hs
  have hstays : s.testRound.takeSyncLoss = s.testRound := by
    have hnone := (htested.inStep ⟨hloss, hmarks⟩).1
    unfold State.takeSyncLoss
    split
    · rfl
    · rw [hnone]
      exact if_neg Bool.false_ne_true
  change Onward s s.testRound.takeSyncLoss
  rw [hstays]
  exact htested

theorem runTask_onward (hin : InStep s.clock) (task : RoundEndTask) : Onward s (s.runTask task) := by
  cases task with
  | misalignedTest => exact misalignedTest_onward hin
  | silence =>
    refine onward_of_apply ((examineRoster_side s).trans (departSilent_side _)) ((examineRoster_sameShape s).trans ?_)
    exact SameShape.foldl (fun v (r : RosterRecord) => (silentPeer_sameShape v r.station).trans (tryBegin_sameShape _)) _ _
  | coldMarks => exact onward_of_apply (reduceColdMarks_side s).toCatchUpSide.toApplySide (reduceColdMarks_sameShape s)
  | resyncTimers =>
    have hreduced := reduceTimers_steady s
    exact onward_of_apply ((reduceTimers_side s).trans ((expireWait_side _).trans ((tryBegin_side _).trans
        ((expireStall_side _).trans (tryBegin_side _))))).toApplySide
      ((sameShape_of_eq hreduced.windows hreduced.roster).trans
        ((expire_sameShape s.reduceTimers).1.trans (expire_sameShape s.reduceTimers.expireWait.tryBegin).2))
  | offerLapse =>
    have hside := lapseOffers_side s
    exact onward_of_apply hside.toCurrencySide.toCatchUpSide.toApplySide (sameShape_of_copySide hside)

/-- The records are told one by one, each silent one departing. -/
theorem runs_peerSilent : ∀ (l : List RosterRecord) (s : State), Runs (l.map fun r => .peerSilent r.station) s
    (l.foldl (fun t r => (t.silentPeer r.station).tryBegin) s)
  | [], _ => rfl
  | _ :: l, _ => ⟨_, rfl, runs_peerSilent l _⟩

/-- A block's action on a round end is what its commands do. -/
theorem runs_task (s : State) (task : RoundEndTask) :
    Runs (s.taskRows task) (if task = .resyncTimers then s.timersReduced else s) (s.runTask task) := by
  cases task with
  | misalignedTest => exact ⟨_, rfl, _, rfl, rfl⟩
  | silence =>
    have hrows : (s.roster.map fun r => Instr.peerSilent r.station) =
        s.examineRoster.roster.map fun r => Instr.peerSilent r.station := by
      have hstations := congrArg (List.map Instr.peerSilent) (examineRoster_sameShape s).stations
      rw [List.map_map, List.map_map] at hstations
      exact hstations.symm
    refine ⟨_, rfl, ?_⟩
    rw [hrows]
    exact runs_peerSilent _ _
  | coldMarks => exact ⟨_, rfl, rfl⟩
  | resyncTimers =>
    rw [if_pos rfl, ← reduceTimers_eq]
    exact ⟨_, rfl, _, rfl, rfl⟩
  | offerLapse => exact ⟨_, rfl, rfl⟩

theorem actsInOrder_runTasks : ∀ (l : List RoundEndTask) {s : State}, InStep s.clock →
    ActsInOrder l s (l.foldl State.runTask s) ∧ Onward s (l.foldl State.runTask s)
  | [], s, _ => ⟨rfl, .refl s⟩
  | task :: l, s, hin => by
    have hacted := runTask_onward hin task
    obtain ⟨hacts, honward⟩ := actsInOrder_runTasks l (hacted.inStep hin)
    exact ⟨⟨_, runs_task s task, hacts⟩, hacted.trans honward⟩

/-! ### The alignment -/

/-- The happenings at an instant are those of the slots and behind them the round end. -/
theorem raiseAll_eq (order : List RoundEndTask) (n : Nat) (s : State) :
    (p.happenings n).foldl (State.raise p order) s =
      if n = p.round then ((slotsAt p n).foldl (State.raise p order) s).passRoundEnd order
      else (slotsAt p n).foldl (State.raise p order) s := by
  have hround : p.roundLength = p.round := rfl
  rw [Profile.happenings, List.foldl_append, hround]
  change List.foldl _ ((slotsAt p n).foldl (State.raise p order) s) _ = _
  by_cases hn : n = p.round
  · rw [if_pos hn, if_pos hn]
    rfl
  · rw [if_neg hn, if_neg hn]
    rfl

/-- Moving forward in step passes over every happening, round ends included, and leaves the clock the distance on. -/
theorem moveForward_passes (order : List RoundEndTask) (hp : base.profile = some p)
    (hm : base.station.clockMode = .running) (hin : InStep base.clock) : ∀ (d n : Nat) {s : State}, n < p.round →
    Onward (base.reach n) s →
    Passes p (wholeOrder order) d n s (State.moveForward p order d s) ∧
      Onward (base.reach ((n + d) % p.round)) (State.moveForward p order d s)
  | 0, n, s, hn, hs => by
    rw [Nat.add_zero, Nat.mod_eq_of_lt hn]
    exact ⟨rfl, hs⟩
  | d + 1, n, s, hn, hs => by
    have hreached : Onward (base.reach (n + 1)) (s.reach (n + 1)) := { hs with position := rfl }
    obtain ⟨hruns, hraised⟩ := runs_raised order (slotsAt p (n + 1)) (hreached.profile.trans hp)
      ((congrArg StationState.clockMode hreached.station).trans hm) hreached.position fun x hx => slotsAt_ofSlot hx
    rw [slotsAt_rows] at hruns
    have hslots := hreached.trans hraised
    have hposition : s.clock.position = some n := hs.position
    have hstep : State.moveForward p order (d + 1) s =
        State.moveForward p order d ((p.happenings (n + 1)).foldl (State.raise p order) (s.reach (n + 1))) := by
      rw [State.moveForward, hposition]
    rw [hstep, raiseAll_eq]
    generalize (slotsAt p (n + 1)).foldl (State.raise p order) (s.reach (n + 1)) = v at *
    by_cases hend : n + 1 = p.round
    · have hended : Onward (base.reach 0) v.endRound := { hslots with position := rfl }
      obtain ⟨hacts, hacted⟩ := actsInOrder_runTasks (wholeOrder order) (hended.inStep hin)
      obtain ⟨hpasses, honward⟩ := moveForward_passes order hp hm hin d 0 (by omega) (hended.trans hacted)
      have hwhere : (0 + d) % p.round = (n + (d + 1)) % p.round := by
        rw [show n + (d + 1) = p.round + d by omega, Nat.add_mod_left, Nat.zero_add]
      rw [if_pos hend]
      rw [hwhere] at honward
      refine ⟨⟨v, hruns, ?_⟩, honward⟩
      rw [if_pos hend]
      exact ⟨_, hacts, hpasses⟩
    · obtain ⟨hpasses, honward⟩ := moveForward_passes order hp hm hin d (n + 1) (by omega) hslots
      rw [if_neg hend]
      rw [show n + 1 + d = n + (d + 1) by omega] at honward
      refine ⟨⟨v, hruns, ?_⟩, honward⟩
      rw [if_neg hend]
      exact hpasses

/-! ### The distance of an OPEN in step -/

theorem openOffset_forward {here forward : Nat} (hoff : here + forward = p.openEnd k ∨ here + forward = p.openEnd k + p.round)
    (hgrace : forward ≤ p.grace) (hround : 2 * p.grace < p.round) : p.openOffset k here = forward := by
  have hlength : p.roundLength = p.round := rfl
  unfold Profile.openOffset
  dsimp only
  rw [hlength]
  split
  · omega
  · split <;> omega

theorem openOffset_backward {here backward : Nat} (hoff : here = p.openEnd k + backward) (hgrace : backward ≤ p.grace)
    (hround : 2 * p.grace < p.round) : p.openOffset k here = -backward := by
  have hlength : p.roundLength = p.round := rfl
  unfold Profile.openOffset
  dsimp only
  rw [hlength]
  split
  · omega
  · split <;> omega

/-- The own expected end lies within the round (R60, R66). -/
theorem openEnd_lt (hk : k < p.slots) (hslot : p.grace + 20 < p.slotLength) : p.openEnd k < p.round := by
  have hslots : (k + 1) * p.slotLength ≤ p.slots * p.slotLength := Nat.mul_le_mul_right _ hk
  rw [Nat.succ_mul] at hslots
  unfold Profile.openEnd Profile.slotStart Profile.round
  omega

/-- The clock takes the round number of the OPEN, on time (R67, R70). -/
def alignedTo (m : State) (round : Half) : State := { m with clock := { m.clock with round := round, onTimeMark := true } }

theorem align_forward {here forward : Nat} (hoff : p.openOffset k here = forward) (round : Half) (order : List RoundEndTask) :
    s.align p k here round order = alignedTo (State.moveForward p order forward (s.passTo here).markOnTime) round := by
  unfold State.align
  dsimp only
  rw [hoff, if_pos (Int.natCast_nonneg forward), Int.toNat_natCast]
  rfl

/-- Backward the clock is put at the expected end, and nothing is raised (R67). -/
theorem align_backward {here backward : Nat} (hoff : p.openOffset k here = -backward) (hwhere : here = n + backward)
    (hn : n < p.round) (round : Half) (order : List RoundEndTask) :
    s.align p k here round order = alignedTo ((s.passTo here).markOnTime.reach n) round := by
  have hlength : p.roundLength = p.round := rfl
  unfold State.align
  dsimp only
  rw [hoff, hlength]
  split
  · have hzero : backward = 0 := by omega
    subst hzero
    rw [Nat.add_zero] at hwhere
    subst hwhere
    have hposition : (s.passTo here).markOnTime.clock.position = some here := by
      rw [passTo_movedTo]
      rfl
    have hreach : (s.passTo here).markOnTime.reach here = (s.passTo here).markOnTime := by
      unfold State.reach
      rw [← hposition]
    rw [hreach]
    rfl
  · have hend : ((here : Int) + p.round + -backward) % p.round = n := by
      rw [show ((here : Int) + p.round + -backward) = n + p.round by omega, Int.add_emod_right]
      exact Int.emod_eq_of_lt (by omega) (by omega)
    rw [hend, Int.toNat_natCast]
    rfl

theorem onTime_of_offset {here : Nat} {d : Int} (hoff : p.openOffset k here = d) (hd : d.natAbs ≤ p.grace) :
    p.onTime k here = true := by
  rw [Profile.onTime, hoff]
  exact decide_eq_true hd

/-- An OPEN that is on time aligns the clock, is judged for the cold contest and is taken by the Roster and the Apply Unit
(R66, R67, R89; log entry 10). -/
theorem openReported_onTime {h : Header} {cold leaving : Bool} {current : WindowSet} {instant : Nat}
    {order : List RoundEndTask} (hp : s.profile = some p) (hm : s.station.clockMode = .running)
    (hk : h.slotIndex.toNat < p.slots) (howner : p.allotment[h.slotIndex.toNat]? = some h.sender)
    (hon : p.onTime h.slotIndex.toNat (instant % p.round) = true) :
    s.openReported h p.digest cold leaving current instant order =
      (((s.align p h.slotIndex.toNat (instant % p.round) h.round order).contest p h.sender cold false).rosterHeard h cold
        leaving current).takeOpen h leaving false := by
  rw [openReported_running hp hm, State.openRunning, if_neg (foreignOpen_own hk howner), if_pos hon]

/-- Settles O31: the alignment passes over the happenings one by one, in step throughout, and the OPEN is taken where it
leaves the clock. -/
theorem openInStepAlignsTheClock : Obligations.OpenInStepAlignsTheClock := by
  intro s p h cold leaving current instant k order hs hloss hp hm ht hslotIndex hk howner hrecord hslot hround here expected
    base heardAt
  subst hslotIndex
  have hheard : (s.heard p).Sound := heard_sound hs ht.1
  have hexpected : p.openEnd h.slotIndex.toNat = expected := rfl
  have hwithin : expected < p.round := openEnd_lt hk hslot
  have hhere : here < p.round := Nat.mod_lt _ (Nat.zero_lt_of_lt hround)
  have hin : InStep base.clock := ⟨hloss, Bool.and_false _⟩
  have hbase : ((s.heard p).passTo here).markOnTime = base := by
    rw [passTo_movedTo]
    rfl
  have htaken {d : Int} (hoff : p.openOffset h.slotIndex.toNat here = d) (hd : d.natAbs ≤ p.grace) {m : State}
      (haligned : (s.heard p).align p h.slotIndex.toNat here h.round order = alignedTo m h.round)
      (hm' : Onward (base.reach expected) m) : heardAt m := by
    have hagrees := (agrees_of_sound hheard).align (p := p) (position_of_running hheard.clock hm) h.slotIndex.toNat here
      h.round order
    have hat : alignedTo m h.round =
        { m with clock := { m.clock with position := some expected, round := h.round, onTimeMark := true } } := by
      have hposition : m.clock.position = some expected := hm'.position
      unfold alignedTo
      rw [← hposition]
    obtain ⟨r, hr⟩ := rosterOf_sameShape hm'.toSameShape hrecord
    rw [haligned] at hagrees
    have hjudged := contest_judged hagrees.lossReady p h.sender cold false
    have hlength := contest_globalLength hagrees.lossReady p h.sender cold false
    have hside := contest_side (alignedTo m h.round) p h.sender cold false
    have hcontested := hagrees.contest p h.sender cold false
    have hfinal := openReported_onTime (s := s.heard p) (cold := cold) (leaving := leaving) (current := current)
      (order := order) hp hm hk howner (onTime_of_offset hoff hd)
    rw [haligned] at hfinal
    generalize (alignedTo m h.round).contest p h.sender cold false = v at *
    have hset : v.readCurrentSet current = s.readCurrentSet current :=
      readCurrentSet_congr (fun w => (hlength w).trans (hm'.lengths w)) current
    have hrecorded : v.rosterOf h.sender = some r := by
      rw [hside]
      exact hr
    obtain ⟨harrived, hframe⟩ := rosterHeard_heard hrecorded cold leaving current
    have hroundNo : v.clock.round = h.round := by
      rw [hside]
      rfl
    rw [hroundNo] at harrived
    rw [hset] at hframe
    have hseen := hcontested.rosterHeard h cold leaving current
    have hstation : (v.rosterHeard h cold leaving current).station = s.station := by
      rw [hframe, hside]
      exact hm'.station
    have haccount : (v.rosterHeard h cold leaving current).account = m.account := by
      rw [hframe, hside]
      rfl
    refine ⟨r, _, v, v.rosterHeard h cold leaving current, (v.rosterHeard h cold leaving current).endAccount .nextOpen, _,
      (exec_openReceived instant order hp ht).trans (congrArg (fun v => Host.Outcome.next (State.tryBegin v)) hfinal), hr, rfl,
      ?_, harrived, hframe, ?_, ?_⟩
    · rw [← hat]
      have hstation' : (alignedTo m h.round).station = s.station := hm'.station
      have hmarks (w : WindowNo) : ((alignedTo m h.round).window w).coldMark = (m.window w).coldMark := rfl
      simp only [hstation', hmarks] at hjudged
      exact hjudged
    · cases ha : m.account with
      | none => exact endAccount_none (haccount.trans ha) _
      | some a => exact endAccount_some hseen.lossReady (haccount.trans ha) _
    · have htested := (hseen.takeOpen h leaving false).lossReady.tested
      rw [takeOpen_known hseen, hstation] at htested ⊢
      exact htested
  refine ⟨fun forward hoff hgrace => ?_, fun backward hoff hgrace => ?_⟩
  · have hforward := openOffset_forward (k := h.slotIndex.toNat) hoff hgrace hround
    have haligned := align_forward (s := s.heard p) hforward h.round order
    rw [hbase] at haligned
    have hstart : Onward (base.reach here) base := { position := rfl }
    obtain ⟨hpasses, honward⟩ := moveForward_passes order (base := base) hp hm hin forward here hhere hstart
    have hwhere : (here + forward) % p.round = expected := by
      rcases hoff with hoff | hoff
      · rw [hoff, Nat.mod_eq_of_lt hwithin]
      · rw [hoff, Nat.add_mod_right, Nat.mod_eq_of_lt hwithin]
    rw [hwhere] at honward
    obtain ⟨hnodup, hall, hgiven⟩ := wholeOrder_whole order
    exact ⟨_, _, hnodup, hall, hgiven, hpasses, htaken hforward hgrace haligned honward⟩
  · have hbackward := openOffset_backward (k := h.slotIndex.toNat) hoff hgrace hround
    have haligned := align_backward (s := s.heard p) hbackward hoff hwithin h.round order
    rw [hbase] at haligned
    exact htaken hbackward (by rw [Int.natAbs_neg]; exact hgrace) haligned (.refl _)

end Sys2Proof.Proofs
